-- ==== Sys2Proof/Word.lean ====
section
/-! DEFINITION. The machine's words (00_scope.md R9): 32-bit words and addresses, 16-bit Narrow words, bytes, and the
4-bit register number of 10_state.md R24. -/
namespace Sys2Proof

/-- A register, an address, a Wide instruction word or the counter (R9). -/
abbrev Word := BitVec 32

/-- A Narrow instruction word (R9). -/
abbrev Half := BitVec 16

/-- The smallest addressable unit (R50). -/
abbrev Byte := BitVec 8

/-- A logical register number. It is a 4-bit value, so a number above 15 cannot be written down (R24). -/
abbrev Reg := BitVec 4

end Sys2Proof
end

