-- ==== Sys2Proof/Config.lean ====
section
/-! DEFINITION. What an implementation fixes: the operating modes, the two instruction sets, the OPEN parameters of
00_scope.md R6, and the free values of `draw()` (R8). -/
namespace Sys2Proof

/-- `instruction_set_mode` (10_state.md R31): it alone sets the decode width (30_encoding.md R115). -/
inductive InstrSet where
  | wide    -- 32-bit words
  | narrow  -- 16-bit words
  deriving DecidableEq, Repr

/-- `operating_mode` (10_state.md R32). The six modes differ only in the bank behind r13, r14 and the flags (R191). -/
inductive Mode where
  | user
  | fastInterrupt
  | interrupt
  | supervisor
  | abort
  | undefined
  deriving DecidableEq, Repr

/-- `P_VRAM_MIRROR` (20_memory.md R55, decision D4). -/
inductive VramMirror where
  | gba128
  | mod96
  deriving DecidableEq, Repr

/-- `P_MUL_CV` (42_multiply.md R163, decision D20). -/
inductive MulCV where
  | draw
  | preserve
  deriving DecidableEq, Repr

/-- `P_RESET_REGS` (10_state.md R44, R45, decision D17). -/
inductive ResetRegs where
  | unwritten
  | zero
  deriving DecidableEq, Repr

/-- The OPEN parameters of R6 that a step or a port consults. State carries them, nothing writes them, so every
statement about all states holds for every setting (DESIGN CHOICE, safe: log entry 1). -/
structure Params where
  /-- `P_ROM_SIZE`: the byte length of the loaded cartridge image (D8). -/
  romSize : Nat
  vramMirror : VramMirror
  /-- `P_WAITCNT_BACKING_WRITE` (D11, conflict C1). -/
  waitcntBackingWrite : Bool
  /-- `P_DISPLAY_BACKING_WRITE` (D12). -/
  displayBackingWrite : Bool
  mulCV : MulCV
  deriving DecidableEq, Repr

/-- The largest cartridge image: one ROM window (R6, R56). -/
def maxRomSize : Nat := 0x02000000

/-- The defaults of R6. `P_ROM_SIZE` has no default there; the largest legal image is taken (DESIGN CHOICE, unsafe:
log entry 4). -/
def Params.default : Params where
  romSize := maxRomSize
  vramMirror := .gba128
  waitcntBackingWrite := true
  displayBackingWrite := false
  mulCV := .draw

/-- Everything a session start is given (70_reset_and_hazards.md R200, R201, R203): the loader's two images and the OPEN
parameters, with their defaults of R6. `P_ROM_SIZE` is the length of `romImage`. -/
structure Launch where
  bootImage : List Byte
  romImage : List Byte
  resetPc : Word := 0x00000000
  resetMode : Mode := .supervisor
  resetRegs : ResetRegs := .unwritten
  vramMirror : VramMirror := .gba128
  waitcntBackingWrite : Bool := true
  displayBackingWrite : Bool := false
  mulCV : MulCV := .draw
  deriving DecidableEq, Repr

/-- A load-time failure (60_exceptions.md R182, E8): "missing files, zero-length images", or a wrong size. -/
inductive LoadError where
  | badBootImage
  | badRomImage
  deriving DecidableEq, Repr

namespace Config

/-- The n-th `draw()` of a run (R8): an arbitrary Boolean. It has no body, so nothing can be proved of its value (log
entry 6). -/
opaque freeFlag : Nat → Bool

end Config

end Sys2Proof
end

