-- ==== Sys2Proof/Syntax.lean ====
section
/-! DEFINITION. Instructions as syntax: the condition codes (40_dispatch.md R130), the format classes (30_encoding.md R102,
R113, R114), the field records (R106) and one constructor of `Instr` per row of spec/opcode_table.json. -/
namespace Sys2Proof

/-- The 16 condition codes of R130, in the order 0 to 15, under the suffixes of R116. -/
inductive Cond where
  | eq | ne | cs | cc | mi | pl | vs | vc | hi | ls | ge | lt | gt | le | al | nv
  deriving DecidableEq, Repr

/-- The 15 Wide format classes (R102). -/
inductive WideClass where
  | dataProcessing
  | multiply
  | multiplyLong
  | singleDataSwap
  | branchExchange
  | halfwordRegOffset
  | halfwordImmOffset
  | singleDataTransfer
  | undefined
  | blockDataTransfer
  | branch
  | coprocDataTransfer
  | coprocDataOperation
  | coprocRegisterTransfer
  | softwareInterrupt
  deriving DecidableEq, Repr

/-- The Narrow formats T1 to T19 (R113) and the class of the words that match no row (R114). -/
inductive NarrowFormat where
  | t1 | t2 | t3 | t4 | t5 | t6 | t7 | t8 | t9 | t10
  | t11 | t12 | t13 | t14 | t15 | t16 | t17 | t18 | t19
  | undefined
  deriving DecidableEq, Repr

/-- What the decoder classifies a word into (R101). -/
inductive FormatClass where
  | wide (c : WideClass)
  | narrow (f : NarrowFormat)
  deriving DecidableEq, Repr

/-- `DataProcessing` fields (R106); the opcode w[24:21] is the constructor. -/
structure DpFields where
  i : Bool
  s : Bool
  rn : Reg
  rd : Reg
  operand2 : BitVec 12
  deriving DecidableEq, Repr

/-- `Multiply` fields (R106); the accumulate bit A is the constructor. -/
structure MulFields where
  s : Bool
  rd : Reg
  rn : Reg
  rs : Reg
  rm : Reg
  deriving DecidableEq, Repr

/-- `MultiplyLong` fields (R106); U and A are the constructor. -/
structure MulLongFields where
  s : Bool
  rdHi : Reg
  rdLo : Reg
  rs : Reg
  rm : Reg
  deriving DecidableEq, Repr

/-- `SingleDataSwap` fields (R106); B is the constructor. -/
structure SwapFields where
  rn : Reg
  rd : Reg
  rm : Reg
  deriving DecidableEq, Repr

/-- `HalfwordRegOffset` fields (R106); L, S and H are the constructor. -/
structure HalfRegFields where
  p : Bool
  u : Bool
  w : Bool
  rn : Reg
  rd : Reg
  rm : Reg
  deriving DecidableEq, Repr

/-- `HalfwordImmOffset` fields (R106), `offset8 = {w[11:8], w[3:0]}`; L, S and H are the constructor. -/
structure HalfImmFields where
  p : Bool
  u : Bool
  w : Bool
  rn : Reg
  rd : Reg
  offset8 : BitVec 8
  deriving DecidableEq, Repr

/-- `SingleDataTransfer` fields (R106); B and L are the constructor. -/
structure TransferFields where
  i : Bool
  p : Bool
  u : Bool
  w : Bool
  rn : Reg
  rd : Reg
  offset12 : BitVec 12
  deriving DecidableEq, Repr

/-- `BlockDataTransfer` fields (R106); L is the constructor. -/
structure BlockFields where
  p : Bool
  u : Bool
  s : Bool
  w : Bool
  rn : Reg
  rlist : BitVec 16
  deriving DecidableEq, Repr

/-- `CoprocDataTransfer` fields (R106); L is the constructor. -/
structure CoprocTransferFields where
  p : Bool
  u : Bool
  n : Bool
  w : Bool
  rn : Reg
  crd : BitVec 4
  cpnum : BitVec 4
  offset8 : BitVec 8
  deriving DecidableEq, Repr

/-- `CoprocDataOperation` fields (R106). -/
structure CoprocOpFields where
  cpopc : BitVec 4
  crn : BitVec 4
  crd : BitVec 4
  cpnum : BitVec 4
  cp : BitVec 3
  crm : BitVec 4
  deriving DecidableEq, Repr

/-- `CoprocRegisterTransfer` fields (R106); L is the constructor. -/
structure CoprocRegFields where
  cpopc : BitVec 3
  crn : BitVec 4
  rd : Reg
  cpnum : BitVec 4
  cp : BitVec 3
  crm : BitVec 4
  deriving DecidableEq, Repr

/-- The bits of a word of the `000` space with bits 7 and 4 set. The class has no fields (R106); the bits are kept so that
the word can be reported (R170) and encoded again (DESIGN CHOICE, safe: log entry 12). -/
structure Undef000Bits where
  hi : BitVec 17   -- w[24:8]
  sh : BitVec 2    -- w[6:5]
  lo : BitVec 4    -- w[3:0]
  deriving DecidableEq, Repr

/-- The bits of a word of the `011` space with bit 4 set (as `Undef000Bits`). -/
structure Undef011Bits where
  hi : BitVec 20   -- w[24:5]
  lo : BitVec 4    -- w[3:0]
  deriving DecidableEq, Repr

/-- One constructor per row of spec/opcode_table.json, in its order. Every Wide constructor carries the condition (R107).
A Narrow constructor carries the bits outside its row's mask as one payload: the spec gives no operand field of any Narrow
format (DESIGN CHOICE, safe: log entry 12). `mrs`, `msrReg` and `msrImm` are the table's rows with `alias: true`: names for
words that the decoder reads as TST, TEQ, CMP or CMN (R119; log entry 10). -/
inductive Instr where
  -- Branch
  | b (c : Cond) (offset24 : BitVec 24)
  | bl (c : Cond) (offset24 : BitVec 24)
  -- BranchExchange
  | bx (c : Cond) (rm : Reg)
  | bxR15 (c : Cond)
  -- Multiply
  | mul (c : Cond) (f : MulFields)
  | mla (c : Cond) (f : MulFields)
  -- DataProcessing
  | and (c : Cond) (f : DpFields)
  | eor (c : Cond) (f : DpFields)
  | sub (c : Cond) (f : DpFields)
  | rsb (c : Cond) (f : DpFields)
  | add (c : Cond) (f : DpFields)
  | adc (c : Cond) (f : DpFields)
  | sbc (c : Cond) (f : DpFields)
  | rsc (c : Cond) (f : DpFields)
  | tst (c : Cond) (f : DpFields)
  | teq (c : Cond) (f : DpFields)
  | cmp (c : Cond) (f : DpFields)
  | cmn (c : Cond) (f : DpFields)
  | orr (c : Cond) (f : DpFields)
  | mov (c : Cond) (f : DpFields)
  | bic (c : Cond) (f : DpFields)
  | mvn (c : Cond) (f : DpFields)
  | mrs (c : Cond) (ps : Bool) (rd : Reg)
  | msrReg (c : Cond) (pd : Bool) (fieldmask : BitVec 4) (rm : Reg)
  | msrImm (c : Cond) (pd : Bool) (fieldmask : BitVec 4) (imm : BitVec 12)
  -- MultiplyLong
  | umull (c : Cond) (f : MulLongFields)
  | umlal (c : Cond) (f : MulLongFields)
  | smull (c : Cond) (f : MulLongFields)
  | smlal (c : Cond) (f : MulLongFields)
  -- SingleDataSwap
  | swp (c : Cond) (f : SwapFields)
  | swpb (c : Cond) (f : SwapFields)
  -- HalfwordRegOffset
  | strhReg (c : Cond) (f : HalfRegFields)
  -- HalfwordImmOffset
  | strhImm (c : Cond) (f : HalfImmFields)
  -- HalfwordRegOffset
  | ldrhReg (c : Cond) (f : HalfRegFields)
  -- HalfwordImmOffset
  | ldrhImm (c : Cond) (f : HalfImmFields)
  -- HalfwordRegOffset
  | ldrsbReg (c : Cond) (f : HalfRegFields)
  -- HalfwordImmOffset
  | ldrsbImm (c : Cond) (f : HalfImmFields)
  -- HalfwordRegOffset
  | ldrshReg (c : Cond) (f : HalfRegFields)
  -- HalfwordImmOffset
  | ldrshImm (c : Cond) (f : HalfImmFields)
  -- HalfwordRegOffset
  | hdtL0Sh10Reg (c : Cond) (f : HalfRegFields)
  -- HalfwordImmOffset
  | hdtL0Sh10Imm (c : Cond) (f : HalfImmFields)
  -- HalfwordRegOffset
  | hdtL0Sh11Reg (c : Cond) (f : HalfRegFields)
  -- HalfwordImmOffset
  | hdtL0Sh11Imm (c : Cond) (f : HalfImmFields)
  -- Undefined
  | undefined000 (c : Cond) (f : Undef000Bits)
  | undefined011 (c : Cond) (f : Undef011Bits)
  -- SingleDataTransfer
  | str (c : Cond) (f : TransferFields)
  | ldr (c : Cond) (f : TransferFields)
  | strb (c : Cond) (f : TransferFields)
  | ldrb (c : Cond) (f : TransferFields)
  -- BlockDataTransfer
  | stm (c : Cond) (f : BlockFields)
  | ldm (c : Cond) (f : BlockFields)
  -- CoprocDataTransfer
  | stc (c : Cond) (f : CoprocTransferFields)
  | ldc (c : Cond) (f : CoprocTransferFields)
  -- CoprocDataOperation
  | cdp (c : Cond) (f : CoprocOpFields)
  -- CoprocRegisterTransfer
  | mcr (c : Cond) (f : CoprocRegFields)
  | mrc (c : Cond) (f : CoprocRegFields)
  -- SoftwareInterrupt
  | swi (c : Cond) (comment : BitVec 24)
  -- T1
  | tLsl (p : BitVec 11)
  | tLsr (p : BitVec 11)
  | tAsr (p : BitVec 11)
  -- T2
  | tAddReg (p : BitVec 9)
  | tSubReg (p : BitVec 9)
  | tAddImm3 (p : BitVec 9)
  | tSubImm3 (p : BitVec 9)
  -- T3
  | tMovImm (p : BitVec 11)
  | tCmpImm (p : BitVec 11)
  | tAddImm8 (p : BitVec 11)
  | tSubImm8 (p : BitVec 11)
  -- T4
  | tAndAlu (p : BitVec 6)
  | tEorAlu (p : BitVec 6)
  | tLslAlu (p : BitVec 6)
  | tLsrAlu (p : BitVec 6)
  | tAsrAlu (p : BitVec 6)
  | tAdcAlu (p : BitVec 6)
  | tSbcAlu (p : BitVec 6)
  | tRorAlu (p : BitVec 6)
  | tTstAlu (p : BitVec 6)
  | tNegAlu (p : BitVec 6)
  | tCmpAlu (p : BitVec 6)
  | tCmnAlu (p : BitVec 6)
  | tOrrAlu (p : BitVec 6)
  | tMulAlu (p : BitVec 6)
  | tBicAlu (p : BitVec 6)
  | tMvnAlu (p : BitVec 6)
  -- T5
  | tAddHi (p : BitVec 8)
  | tCmpHi (p : BitVec 8)
  | tMovHi (p : BitVec 8)
  | tBx (p : BitVec 8)
  -- T6
  | tLdrPc (p : BitVec 11)
  -- T7
  | tStrReg (p : BitVec 9)
  | tStrbReg (p : BitVec 9)
  | tLdrReg (p : BitVec 9)
  | tLdrbReg (p : BitVec 9)
  -- T8
  | tStrhReg (p : BitVec 9)
  | tLdsbReg (p : BitVec 9)
  | tLdrhReg (p : BitVec 9)
  | tLdshReg (p : BitVec 9)
  -- T9
  | tStrImm (p : BitVec 11)
  | tLdrImm (p : BitVec 11)
  | tStrbImm (p : BitVec 11)
  | tLdrbImm (p : BitVec 11)
  -- T10
  | tStrhImm (p : BitVec 11)
  | tLdrhImm (p : BitVec 11)
  -- T11
  | tStrSp (p : BitVec 11)
  | tLdrSp (p : BitVec 11)
  -- T12
  | tAddPc (p : BitVec 11)
  | tAddSp (p : BitVec 11)
  -- T13
  | tAddSpImm (p : BitVec 8)
  -- T14
  | tPush (p : BitVec 9)
  | tPop (p : BitVec 9)
  -- T15
  | tStmia (p : BitVec 11)
  | tLdmia (p : BitVec 11)
  -- T16
  | tBeq (p : BitVec 8)
  | tBne (p : BitVec 8)
  | tBcs (p : BitVec 8)
  | tBcc (p : BitVec 8)
  | tBmi (p : BitVec 8)
  | tBpl (p : BitVec 8)
  | tBvs (p : BitVec 8)
  | tBvc (p : BitVec 8)
  | tBhi (p : BitVec 8)
  | tBls (p : BitVec 8)
  | tBge (p : BitVec 8)
  | tBlt (p : BitVec 8)
  | tBgt (p : BitVec 8)
  | tBle (p : BitVec 8)
  -- T17
  | tSwiThumb (p : BitVec 8)
  -- T18
  | tBThumb (p : BitVec 11)
  -- T19
  | tBlPrefix (p : BitVec 11)
  | tBlSuffix (p : BitVec 11)
  -- NarrowUndefined
  | narrowUndefB1 (p : BitVec 8)
  | narrowUndefB2 (p : BitVec 8)
  | narrowUndefB3 (p : BitVec 8)
  | narrowUndefB6 (p : BitVec 8)
  | narrowUndefB7 (p : BitVec 8)
  | narrowUndefB8 (p : BitVec 8)
  | narrowUndefB9 (p : BitVec 8)
  | narrowUndefBa (p : BitVec 8)
  | narrowUndefBb (p : BitVec 8)
  | narrowUndefBe (p : BitVec 8)
  | narrowUndefBf (p : BitVec 8)
  | narrowUndefDe (p : BitVec 8)
  | narrowUndefE8Ef (p : BitVec 11)
  deriving DecidableEq, Repr

end Sys2Proof
end

