-- ==== Sys2Proof/WellFormed.lean ====
section
/-! DEFINITION. The terms of `Instr` that some word encodes: the side conditions by which 30_encoding.md R103 keeps one
class's words out of another's, and the invalid register 15 of BX (R110). -/
namespace Sys2Proof

/-- No `DataProcessing` word has `w[25] = 0`, `w[7] = 1` and `w[4] = 1` (R103). -/
def DpFields.wf (f : DpFields) : Bool :=
  f.i || !(f.operand2.getLsbD 7 && f.operand2.getLsbD 4)

/-- The one `TEQ` form whose word is `BranchExchange`: `w[27:4] = 0x12FFF1` (R103). -/
def DpFields.isBxPattern (f : DpFields) : Bool :=
  !f.i && !f.s && (f.rn == 15#4) && (f.rd == 15#4) && (f.operand2.extractLsb' 4 8 == 0xF1#8)

/-- A `SingleDataTransfer` word has not both `w[25] = 1` and `w[4] = 1` (R103). -/
def TransferFields.wf (f : TransferFields) : Bool :=
  !(f.i && f.offset12.getLsbD 4)

/-- The second disjunct of `Undefined` (R103): the word is in none of the multiply, multiply-long, swap and halfword
classes. `hi[16:14]` is `w[24:22]`, `hi[13:12]` is `w[21:20]`, `hi[3:0]` is `w[11:8]`. -/
def Undef000Bits.wf (f : Undef000Bits) : Bool :=
  if f.sh == 0b00#2 then
    match f.hi.getLsbD 16, f.hi.getLsbD 15, f.hi.getLsbD 14 with
    | false, false, false => false
    | false, false, true  => true
    | false, true, _      => false
    | true, false, _      => !((f.hi.extractLsb' 12 2 == 0b00#2) && (f.hi.extractLsb' 0 4 == 0x0#4))
    | true, true, _       => true
  else
    !f.hi.getLsbD 14 && !(f.hi.extractLsb' 0 4 == 0x0#4)

/-- A term some word decodes to, or an alias row's term (R119). -/
def Instr.wf : Instr → Bool
  | .b _ _ => true
  | .bl _ _ => true
  | .bx _ rm => !(rm == 15#4)
  | .bxR15 _ => true
  | .mul _ _ => true
  | .mla _ _ => true
  | .and _ f => f.wf
  | .eor _ f => f.wf
  | .sub _ f => f.wf
  | .rsb _ f => f.wf
  | .add _ f => f.wf
  | .adc _ f => f.wf
  | .sbc _ f => f.wf
  | .rsc _ f => f.wf
  | .tst _ f => f.wf
  | .teq _ f => f.wf && !f.isBxPattern
  | .cmp _ f => f.wf
  | .cmn _ f => f.wf
  | .orr _ f => f.wf
  | .mov _ f => f.wf
  | .bic _ f => f.wf
  | .mvn _ f => f.wf
  | .mrs _ _ _ => true
  | .msrReg _ _ _ _ => true
  | .msrImm _ _ _ _ => true
  | .umull _ _ => true
  | .umlal _ _ => true
  | .smull _ _ => true
  | .smlal _ _ => true
  | .swp _ _ => true
  | .swpb _ _ => true
  | .strhReg _ _ => true
  | .strhImm _ _ => true
  | .ldrhReg _ _ => true
  | .ldrhImm _ _ => true
  | .ldrsbReg _ _ => true
  | .ldrsbImm _ _ => true
  | .ldrshReg _ _ => true
  | .ldrshImm _ _ => true
  | .hdtL0Sh10Reg _ _ => true
  | .hdtL0Sh10Imm _ _ => true
  | .hdtL0Sh11Reg _ _ => true
  | .hdtL0Sh11Imm _ _ => true
  | .undefined000 _ f => f.wf
  | .undefined011 _ _ => true
  | .str _ f => f.wf
  | .ldr _ f => f.wf
  | .strb _ f => f.wf
  | .ldrb _ f => f.wf
  | .stm _ _ => true
  | .ldm _ _ => true
  | .stc _ _ => true
  | .ldc _ _ => true
  | .cdp _ _ => true
  | .mcr _ _ => true
  | .mrc _ _ => true
  | .swi _ _ => true
  | .tLsl _ => true
  | .tLsr _ => true
  | .tAsr _ => true
  | .tAddReg _ => true
  | .tSubReg _ => true
  | .tAddImm3 _ => true
  | .tSubImm3 _ => true
  | .tMovImm _ => true
  | .tCmpImm _ => true
  | .tAddImm8 _ => true
  | .tSubImm8 _ => true
  | .tAndAlu _ => true
  | .tEorAlu _ => true
  | .tLslAlu _ => true
  | .tLsrAlu _ => true
  | .tAsrAlu _ => true
  | .tAdcAlu _ => true
  | .tSbcAlu _ => true
  | .tRorAlu _ => true
  | .tTstAlu _ => true
  | .tNegAlu _ => true
  | .tCmpAlu _ => true
  | .tCmnAlu _ => true
  | .tOrrAlu _ => true
  | .tMulAlu _ => true
  | .tBicAlu _ => true
  | .tMvnAlu _ => true
  | .tAddHi _ => true
  | .tCmpHi _ => true
  | .tMovHi _ => true
  | .tBx _ => true
  | .tLdrPc _ => true
  | .tStrReg _ => true
  | .tStrbReg _ => true
  | .tLdrReg _ => true
  | .tLdrbReg _ => true
  | .tStrhReg _ => true
  | .tLdsbReg _ => true
  | .tLdrhReg _ => true
  | .tLdshReg _ => true
  | .tStrImm _ => true
  | .tLdrImm _ => true
  | .tStrbImm _ => true
  | .tLdrbImm _ => true
  | .tStrhImm _ => true
  | .tLdrhImm _ => true
  | .tStrSp _ => true
  | .tLdrSp _ => true
  | .tAddPc _ => true
  | .tAddSp _ => true
  | .tAddSpImm _ => true
  | .tPush _ => true
  | .tPop _ => true
  | .tStmia _ => true
  | .tLdmia _ => true
  | .tBeq _ => true
  | .tBne _ => true
  | .tBcs _ => true
  | .tBcc _ => true
  | .tBmi _ => true
  | .tBpl _ => true
  | .tBvs _ => true
  | .tBvc _ => true
  | .tBhi _ => true
  | .tBls _ => true
  | .tBge _ => true
  | .tBlt _ => true
  | .tBgt _ => true
  | .tBle _ => true
  | .tSwiThumb _ => true
  | .tBThumb _ => true
  | .tBlPrefix _ => true
  | .tBlSuffix _ => true
  | .narrowUndefB1 _ => true
  | .narrowUndefB2 _ => true
  | .narrowUndefB3 _ => true
  | .narrowUndefB6 _ => true
  | .narrowUndefB7 _ => true
  | .narrowUndefB8 _ => true
  | .narrowUndefB9 _ => true
  | .narrowUndefBa _ => true
  | .narrowUndefBb _ => true
  | .narrowUndefBe _ => true
  | .narrowUndefBf _ => true
  | .narrowUndefDe _ => true
  | .narrowUndefE8Ef _ => true

/-- The words of a well-formed instruction: what claims about encodings assume. -/
abbrev Instr.WellFormed (i : Instr) : Prop := i.wf = true

end Sys2Proof
end

