-- ==== Sys2Proof/Decode.lean ====
section
/-! DEFINITION. The instruction decoder (30_encoding.md): bit extraction (R100), classification (R103, R104, R113, R114),
fields (R106), the opcode table's rows (R119), decoding of any bytes, and the encoder. -/
namespace Sys2Proof

/-- `extract_bits(word, high, low)` (R100): the bounds are swapped when `h < l`, and range over 0..31 (D31). -/
def extractBits (w : Word) (h l : Fin 32) : Word :=
  let hi := if h < l then l else h
  let lo := if h < l then h else l
  (w >>> lo.val) &&& BitVec.ofNat 32 (2 ^ (hi.val - lo.val + 1) - 1)

/-! ## Condition codes -/

/-- The 4-bit code of a condition (40_dispatch.md R130). -/
def Cond.code : Cond → BitVec 4
  | .eq => 0 | .ne => 1 | .cs => 2 | .cc => 3 | .mi => 4 | .pl => 5 | .vs => 6 | .vc => 7
  | .hi => 8 | .ls => 9 | .ge => 10 | .lt => 11 | .gt => 12 | .le => 13 | .al => 14 | .nv => 15

/-- The condition a code names; every code is listed, there is no default (R131). -/
def Cond.ofCode (k : BitVec 4) : Cond :=
  match k.getLsbD 3, k.getLsbD 2, k.getLsbD 1, k.getLsbD 0 with
  | false, false, false, false => .eq
  | false, false, false, true  => .ne
  | false, false, true,  false => .cs
  | false, false, true,  true  => .cc
  | false, true,  false, false => .mi
  | false, true,  false, true  => .pl
  | false, true,  true,  false => .vs
  | false, true,  true,  true  => .vc
  | true,  false, false, false => .hi
  | true,  false, false, true  => .ls
  | true,  false, true,  false => .ge
  | true,  false, true,  true  => .lt
  | true,  true,  false, false => .gt
  | true,  true,  false, true  => .le
  | true,  true,  true,  false => .al
  | true,  true,  true,  true  => .nv

/-- The suffix of a condition in assembler text (R116). -/
def Cond.suffix : Cond → String
  | .eq => "EQ" | .ne => "NE" | .cs => "CS" | .cc => "CC" | .mi => "MI" | .pl => "PL" | .vs => "VS" | .vc => "VC"
  | .hi => "HI" | .ls => "LS" | .ge => "GE" | .lt => "LT" | .gt => "GT" | .le => "LE" | .al => "AL" | .nv => "NV"

/-- `cond = w[31:28]`, in every Wide word (R107). -/
def condOf (w : Word) : Cond := Cond.ofCode (w.extractLsb' 28 4)

/-! ## Wide classification -/

/-- The predicates of R103, one per class, as the table writes them. `w.extractLsb' lo n` is `w[lo+n-1:lo]`. -/
def inWideClass (w : Word) : WideClass → Bool
  | .branchExchange => w.extractLsb' 4 24 == 0x12FFF1#24
  | .multiply => w.extractLsb' 22 6 == 0b000000#6 && w.extractLsb' 4 4 == 0b1001#4
  | .multiplyLong => w.extractLsb' 23 5 == 0b00001#5 && w.extractLsb' 4 4 == 0b1001#4
  | .singleDataSwap =>
      w.extractLsb' 23 5 == 0b00010#5 && w.extractLsb' 20 2 == 0b00#2 && w.extractLsb' 4 8 == 0b00001001#8
  | .halfwordRegOffset =>
      w.extractLsb' 25 3 == 0b000#3 && !w.getLsbD 22 && w.extractLsb' 8 4 == 0b0000#4 && w.getLsbD 7 && w.getLsbD 4
        && w.extractLsb' 5 2 != 0b00#2
  | .halfwordImmOffset =>
      w.extractLsb' 25 3 == 0b000#3 && w.getLsbD 22 && w.getLsbD 7 && w.getLsbD 4 && w.extractLsb' 5 2 != 0b00#2
  | .undefined =>
      (w.extractLsb' 25 3 == 0b011#3 && w.getLsbD 4)
      || (w.extractLsb' 25 3 == 0b000#3 && w.getLsbD 7 && w.getLsbD 4
          && !(w.extractLsb' 22 6 == 0b000000#6 && w.extractLsb' 4 4 == 0b1001#4)
          && !(w.extractLsb' 23 5 == 0b00001#5 && w.extractLsb' 4 4 == 0b1001#4)
          && !(w.extractLsb' 23 5 == 0b00010#5 && w.extractLsb' 20 2 == 0b00#2 && w.extractLsb' 4 8 == 0b00001001#8)
          && !(w.extractLsb' 25 3 == 0b000#3 && !w.getLsbD 22 && w.extractLsb' 8 4 == 0b0000#4 && w.getLsbD 7
                && w.getLsbD 4 && w.extractLsb' 5 2 != 0b00#2)
          && !(w.extractLsb' 25 3 == 0b000#3 && w.getLsbD 22 && w.getLsbD 7 && w.getLsbD 4
                && w.extractLsb' 5 2 != 0b00#2))
  | .dataProcessing =>
      w.extractLsb' 26 2 == 0b00#2 && !(w.extractLsb' 4 24 == 0x12FFF1#24)
        && !(!w.getLsbD 25 && w.getLsbD 7 && w.getLsbD 4)
  | .singleDataTransfer => w.extractLsb' 26 2 == 0b01#2 && !(w.getLsbD 25 && w.getLsbD 4)
  | .blockDataTransfer => w.extractLsb' 25 3 == 0b100#3
  | .branch => w.extractLsb' 25 3 == 0b101#3
  | .coprocDataTransfer => w.extractLsb' 25 3 == 0b110#3
  | .coprocDataOperation => w.extractLsb' 24 4 == 0b1110#4 && !w.getLsbD 4
  | .coprocRegisterTransfer => w.extractLsb' 24 4 == 0b1110#4 && w.getLsbD 4
  | .softwareInterrupt => w.extractLsb' 24 4 == 0b1111#4

/-- The part of the decision list for the `000` space with bits 7 and 4 set (R104). -/
def classifyWide000 (w : Word) : WideClass :=
  if w.extractLsb' 5 2 == 0b00#2 && w.extractLsb' 22 6 == 0b000000#6 then .multiply
  else if w.extractLsb' 5 2 == 0b00#2 && w.extractLsb' 23 5 == 0b00001#5 then .multiplyLong
  else if w.extractLsb' 5 2 == 0b00#2 && w.extractLsb' 23 5 == 0b00010#5 && w.extractLsb' 20 2 == 0b00#2
      && w.extractLsb' 8 4 == 0b0000#4 then .singleDataSwap
  else if w.extractLsb' 5 2 != 0b00#2 && w.getLsbD 22 then .halfwordImmOffset
  else if w.extractLsb' 5 2 != 0b00#2 && !w.getLsbD 22 && w.extractLsb' 8 4 == 0b0000#4 then .halfwordRegOffset
  else .undefined

/-- `classify_wide`: the decision list of R104, evaluated top to bottom. -/
def classifyWide (w : Word) : WideClass :=
  if w.extractLsb' 4 24 == 0x12FFF1#24 then .branchExchange
  else if w.extractLsb' 25 3 == 0b000#3 && w.getLsbD 7 && w.getLsbD 4 then classifyWide000 w
  else if w.extractLsb' 26 2 == 0b00#2 then .dataProcessing
  else if w.extractLsb' 25 3 == 0b011#3 && w.getLsbD 4 then .undefined
  else if w.extractLsb' 26 2 == 0b01#2 then .singleDataTransfer
  else if w.extractLsb' 25 3 == 0b100#3 then .blockDataTransfer
  else if w.extractLsb' 25 3 == 0b101#3 then .branch
  else if w.extractLsb' 25 3 == 0b110#3 then .coprocDataTransfer
  else if w.extractLsb' 24 4 == 0b1110#4 && !w.getLsbD 4 then .coprocDataOperation
  else if w.extractLsb' 24 4 == 0b1110#4 then .coprocRegisterTransfer
  else .softwareInterrupt

/-! ## Wide decoding: the class, then the row of the opcode table -/

def decodeBranch (w : Word) : Instr :=
  match w.getLsbD 24 with
  | false => .b (condOf w) (w.extractLsb' 0 24)
  | true  => .bl (condOf w) (w.extractLsb' 0 24)

/-- `Rm = 15` is the row BX_R15 (R153), every other register the row BX (R152). -/
def decodeBranchExchange (w : Word) : Instr :=
  if w.extractLsb' 0 4 == 15#4 then .bxR15 (condOf w) else .bx (condOf w) (w.extractLsb' 0 4)

def mulFields (w : Word) : MulFields where
  s := w.getLsbD 20
  rd := w.extractLsb' 16 4
  rn := w.extractLsb' 12 4
  rs := w.extractLsb' 8 4
  rm := w.extractLsb' 0 4

def decodeMultiply (w : Word) : Instr :=
  match w.getLsbD 21 with
  | false => .mul (condOf w) (mulFields w)
  | true  => .mla (condOf w) (mulFields w)

def dpFields (w : Word) : DpFields where
  i := w.getLsbD 25
  s := w.getLsbD 20
  rn := w.extractLsb' 16 4
  rd := w.extractLsb' 12 4
  operand2 := w.extractLsb' 0 12

/-- `opcode = w[24:21]` (R106, R171). The alias rows MRS, MSR_reg and MSR_imm are skipped (R119). -/
def decodeDataProcessing (w : Word) : Instr :=
  match w.getLsbD 24, w.getLsbD 23, w.getLsbD 22, w.getLsbD 21 with
  | false, false, false, false => .and (condOf w) (dpFields w)
  | false, false, false, true  => .eor (condOf w) (dpFields w)
  | false, false, true , false => .sub (condOf w) (dpFields w)
  | false, false, true , true  => .rsb (condOf w) (dpFields w)
  | false, true , false, false => .add (condOf w) (dpFields w)
  | false, true , false, true  => .adc (condOf w) (dpFields w)
  | false, true , true , false => .sbc (condOf w) (dpFields w)
  | false, true , true , true  => .rsc (condOf w) (dpFields w)
  | true , false, false, false => .tst (condOf w) (dpFields w)
  | true , false, false, true  => .teq (condOf w) (dpFields w)
  | true , false, true , false => .cmp (condOf w) (dpFields w)
  | true , false, true , true  => .cmn (condOf w) (dpFields w)
  | true , true , false, false => .orr (condOf w) (dpFields w)
  | true , true , false, true  => .mov (condOf w) (dpFields w)
  | true , true , true , false => .bic (condOf w) (dpFields w)
  | true , true , true , true  => .mvn (condOf w) (dpFields w)

def mulLongFields (w : Word) : MulLongFields where
  s := w.getLsbD 20
  rdHi := w.extractLsb' 16 4
  rdLo := w.extractLsb' 12 4
  rs := w.extractLsb' 8 4
  rm := w.extractLsb' 0 4

/-- `U = w[22]`, `A = w[21]` (R171). -/
def decodeMultiplyLong (w : Word) : Instr :=
  match w.getLsbD 22, w.getLsbD 21 with
  | false, false => .umull (condOf w) (mulLongFields w)
  | false, true  => .umlal (condOf w) (mulLongFields w)
  | true,  false => .smull (condOf w) (mulLongFields w)
  | true,  true  => .smlal (condOf w) (mulLongFields w)

def swapFields (w : Word) : SwapFields where
  rn := w.extractLsb' 16 4
  rd := w.extractLsb' 12 4
  rm := w.extractLsb' 0 4

def decodeSwap (w : Word) : Instr :=
  match w.getLsbD 22 with
  | false => .swp (condOf w) (swapFields w)
  | true  => .swpb (condOf w) (swapFields w)

def halfRegFields (w : Word) : HalfRegFields where
  p := w.getLsbD 24
  u := w.getLsbD 23
  w := w.getLsbD 21
  rn := w.extractLsb' 16 4
  rd := w.extractLsb' 12 4
  rm := w.extractLsb' 0 4

/-- `L = w[20]`, `S = w[6]`, `H = w[5]`. In this class S and H are not both 0 (R103), so `S = 0` is the halfword row. -/
def decodeHalfReg (w : Word) : Instr :=
  match w.getLsbD 20, w.getLsbD 6, w.getLsbD 5 with
  | false, false, _     => .strhReg (condOf w) (halfRegFields w)
  | true,  false, _     => .ldrhReg (condOf w) (halfRegFields w)
  | true,  true,  false => .ldrsbReg (condOf w) (halfRegFields w)
  | true,  true,  true  => .ldrshReg (condOf w) (halfRegFields w)
  | false, true,  false => .hdtL0Sh10Reg (condOf w) (halfRegFields w)
  | false, true,  true  => .hdtL0Sh11Reg (condOf w) (halfRegFields w)

/-- `offset8 = {w[11:8], w[3:0]}` (R106). -/
def halfImmFields (w : Word) : HalfImmFields where
  p := w.getLsbD 24
  u := w.getLsbD 23
  w := w.getLsbD 21
  rn := w.extractLsb' 16 4
  rd := w.extractLsb' 12 4
  offset8 := w.extractLsb' 8 4 ++ w.extractLsb' 0 4

/-- As `decodeHalfReg`. -/
def decodeHalfImm (w : Word) : Instr :=
  match w.getLsbD 20, w.getLsbD 6, w.getLsbD 5 with
  | false, false, _     => .strhImm (condOf w) (halfImmFields w)
  | true,  false, _     => .ldrhImm (condOf w) (halfImmFields w)
  | true,  true,  false => .ldrsbImm (condOf w) (halfImmFields w)
  | true,  true,  true  => .ldrshImm (condOf w) (halfImmFields w)
  | false, true,  false => .hdtL0Sh10Imm (condOf w) (halfImmFields w)
  | false, true,  true  => .hdtL0Sh11Imm (condOf w) (halfImmFields w)

def transferFields (w : Word) : TransferFields where
  i := w.getLsbD 25
  p := w.getLsbD 24
  u := w.getLsbD 23
  w := w.getLsbD 21
  rn := w.extractLsb' 16 4
  rd := w.extractLsb' 12 4
  offset12 := w.extractLsb' 0 12

/-- `B = w[22]`, `L = w[20]` (R171). -/
def decodeTransfer (w : Word) : Instr :=
  match w.getLsbD 22, w.getLsbD 20 with
  | false, false => .str (condOf w) (transferFields w)
  | false, true  => .ldr (condOf w) (transferFields w)
  | true,  false => .strb (condOf w) (transferFields w)
  | true,  true  => .ldrb (condOf w) (transferFields w)

/-- The two disjuncts of `Undefined` are the rows UNDEFINED_011 and UNDEFINED_000; `w[26]` tells them apart (R103). -/
def decodeUndefined (w : Word) : Instr :=
  match w.getLsbD 26 with
  | true  => .undefined011 (condOf w) { hi := w.extractLsb' 5 20, lo := w.extractLsb' 0 4 }
  | false => .undefined000 (condOf w) { hi := w.extractLsb' 8 17, sh := w.extractLsb' 5 2, lo := w.extractLsb' 0 4 }

def blockFields (w : Word) : BlockFields where
  p := w.getLsbD 24
  u := w.getLsbD 23
  s := w.getLsbD 22
  w := w.getLsbD 21
  rn := w.extractLsb' 16 4
  rlist := w.extractLsb' 0 16

def decodeBlock (w : Word) : Instr :=
  match w.getLsbD 20 with
  | false => .stm (condOf w) (blockFields w)
  | true  => .ldm (condOf w) (blockFields w)

def coprocTransferFields (w : Word) : CoprocTransferFields where
  p := w.getLsbD 24
  u := w.getLsbD 23
  n := w.getLsbD 22
  w := w.getLsbD 21
  rn := w.extractLsb' 16 4
  crd := w.extractLsb' 12 4
  cpnum := w.extractLsb' 8 4
  offset8 := w.extractLsb' 0 8

def decodeCoprocTransfer (w : Word) : Instr :=
  match w.getLsbD 20 with
  | false => .stc (condOf w) (coprocTransferFields w)
  | true  => .ldc (condOf w) (coprocTransferFields w)

def coprocOpFields (w : Word) : CoprocOpFields where
  cpopc := w.extractLsb' 20 4
  crn := w.extractLsb' 16 4
  crd := w.extractLsb' 12 4
  cpnum := w.extractLsb' 8 4
  cp := w.extractLsb' 5 3
  crm := w.extractLsb' 0 4

def coprocRegFields (w : Word) : CoprocRegFields where
  cpopc := w.extractLsb' 21 3
  crn := w.extractLsb' 16 4
  rd := w.extractLsb' 12 4
  cpnum := w.extractLsb' 8 4
  cp := w.extractLsb' 5 3
  crm := w.extractLsb' 0 4

def decodeCoprocReg (w : Word) : Instr :=
  match w.getLsbD 20 with
  | false => .mcr (condOf w) (coprocRegFields w)
  | true  => .mrc (condOf w) (coprocRegFields w)

/-- Every 32-bit word is one instruction: its class (R104), then the row of that class its opcode bits select (R171). -/
def decodeWide (w : Word) : Instr :=
  match classifyWide w with
  | .dataProcessing => decodeDataProcessing w
  | .multiply => decodeMultiply w
  | .multiplyLong => decodeMultiplyLong w
  | .singleDataSwap => decodeSwap w
  | .branchExchange => decodeBranchExchange w
  | .halfwordRegOffset => decodeHalfReg w
  | .halfwordImmOffset => decodeHalfImm w
  | .singleDataTransfer => decodeTransfer w
  | .undefined => decodeUndefined w
  | .blockDataTransfer => decodeBlock w
  | .branch => decodeBranch w
  | .coprocDataTransfer => decodeCoprocTransfer w
  | .coprocDataOperation => .cdp (condOf w) (coprocOpFields w)
  | .coprocRegisterTransfer => decodeCoprocReg w
  | .softwareInterrupt => .swi (condOf w) (w.extractLsb' 0 24)

/-! ## Narrow decoding (R113, R114) -/

/-- T4: the operation is `h[9:6]`. -/
def decodeAlu (h : Half) : Instr :=
  match h.getLsbD 9, h.getLsbD 8, h.getLsbD 7, h.getLsbD 6 with
  | false, false, false, false => .tAndAlu (h.extractLsb' 0 6)
  | false, false, false, true  => .tEorAlu (h.extractLsb' 0 6)
  | false, false, true , false => .tLslAlu (h.extractLsb' 0 6)
  | false, false, true , true  => .tLsrAlu (h.extractLsb' 0 6)
  | false, true , false, false => .tAsrAlu (h.extractLsb' 0 6)
  | false, true , false, true  => .tAdcAlu (h.extractLsb' 0 6)
  | false, true , true , false => .tSbcAlu (h.extractLsb' 0 6)
  | false, true , true , true  => .tRorAlu (h.extractLsb' 0 6)
  | true , false, false, false => .tTstAlu (h.extractLsb' 0 6)
  | true , false, false, true  => .tNegAlu (h.extractLsb' 0 6)
  | true , false, true , false => .tCmpAlu (h.extractLsb' 0 6)
  | true , false, true , true  => .tCmnAlu (h.extractLsb' 0 6)
  | true , true , false, false => .tOrrAlu (h.extractLsb' 0 6)
  | true , true , false, true  => .tMulAlu (h.extractLsb' 0 6)
  | true , true , true , false => .tBicAlu (h.extractLsb' 0 6)
  | true , true , true , true  => .tMvnAlu (h.extractLsb' 0 6)

/-- T2: `h[10:9]` selects the row. -/
def decodeAddSub (h : Half) : Instr :=
  match h.getLsbD 10, h.getLsbD 9 with
  | false, false => .tAddReg (h.extractLsb' 0 9)
  | false, true  => .tSubReg (h.extractLsb' 0 9)
  | true , false => .tAddImm3 (h.extractLsb' 0 9)
  | true , true  => .tSubImm3 (h.extractLsb' 0 9)

/-- T5: `h[9:8]` selects the row. -/
def decodeHiReg (h : Half) : Instr :=
  match h.getLsbD 9, h.getLsbD 8 with
  | false, false => .tAddHi (h.extractLsb' 0 8)
  | false, true  => .tCmpHi (h.extractLsb' 0 8)
  | true , false => .tMovHi (h.extractLsb' 0 8)
  | true , true  => .tBx (h.extractLsb' 0 8)

/-- T7 and T8: `h[11:9]` selects the row. -/
def decodeRegOffset (h : Half) : Instr :=
  match h.getLsbD 11, h.getLsbD 10, h.getLsbD 9 with
  | false, false, false => .tStrReg (h.extractLsb' 0 9)
  | false, false, true  => .tStrhReg (h.extractLsb' 0 9)
  | false, true , false => .tStrbReg (h.extractLsb' 0 9)
  | false, true , true  => .tLdsbReg (h.extractLsb' 0 9)
  | true , false, false => .tLdrReg (h.extractLsb' 0 9)
  | true , false, true  => .tLdrhReg (h.extractLsb' 0 9)
  | true , true , false => .tLdrbReg (h.extractLsb' 0 9)
  | true , true , true  => .tLdshReg (h.extractLsb' 0 9)

/-- The high bytes `0xB0` to `0xB7`: T13, PUSH of T14, and undefined words (R114). -/
def decodeB0 (h : Half) : Instr :=
  match h.getLsbD 10, h.getLsbD 9, h.getLsbD 8 with
  | false, false, false => .tAddSpImm (h.extractLsb' 0 8)
  | false, false, true  => .narrowUndefB1 (h.extractLsb' 0 8)
  | false, true , false => .narrowUndefB2 (h.extractLsb' 0 8)
  | false, true , true  => .narrowUndefB3 (h.extractLsb' 0 8)
  | true , false, false => .tPush (h.extractLsb' 0 9)
  | true , false, true  => .tPush (h.extractLsb' 0 9)
  | true , true , false => .narrowUndefB6 (h.extractLsb' 0 8)
  | true , true , true  => .narrowUndefB7 (h.extractLsb' 0 8)

/-- The high bytes `0xB8` to `0xBF`: POP of T14 (log entry 11 on its mask), and undefined words (R114). -/
def decodeB8 (h : Half) : Instr :=
  match h.getLsbD 10, h.getLsbD 9, h.getLsbD 8 with
  | false, false, false => .narrowUndefB8 (h.extractLsb' 0 8)
  | false, false, true  => .narrowUndefB9 (h.extractLsb' 0 8)
  | false, true , false => .narrowUndefBa (h.extractLsb' 0 8)
  | false, true , true  => .narrowUndefBb (h.extractLsb' 0 8)
  | true , false, false => .tPop (h.extractLsb' 0 9)
  | true , false, true  => .tPop (h.extractLsb' 0 9)
  | true , true , false => .narrowUndefBe (h.extractLsb' 0 8)
  | true , true , true  => .narrowUndefBf (h.extractLsb' 0 8)

/-- T16, conditions 0 to 7. -/
def decodeD0 (h : Half) : Instr :=
  match h.getLsbD 10, h.getLsbD 9, h.getLsbD 8 with
  | false, false, false => .tBeq (h.extractLsb' 0 8)
  | false, false, true  => .tBne (h.extractLsb' 0 8)
  | false, true , false => .tBcs (h.extractLsb' 0 8)
  | false, true , true  => .tBcc (h.extractLsb' 0 8)
  | true , false, false => .tBmi (h.extractLsb' 0 8)
  | true , false, true  => .tBpl (h.extractLsb' 0 8)
  | true , true , false => .tBvs (h.extractLsb' 0 8)
  | true , true , true  => .tBvc (h.extractLsb' 0 8)

/-- T16, conditions 8 to 13; the undefined high byte `0xDE` (R114); T17. -/
def decodeD8 (h : Half) : Instr :=
  match h.getLsbD 10, h.getLsbD 9, h.getLsbD 8 with
  | false, false, false => .tBhi (h.extractLsb' 0 8)
  | false, false, true  => .tBls (h.extractLsb' 0 8)
  | false, true , false => .tBge (h.extractLsb' 0 8)
  | false, true , true  => .tBlt (h.extractLsb' 0 8)
  | true , false, false => .tBgt (h.extractLsb' 0 8)
  | true , false, true  => .tBle (h.extractLsb' 0 8)
  | true , true , false => .narrowUndefDe (h.extractLsb' 0 8)
  | true , true , true  => .tSwiThumb (h.extractLsb' 0 8)

/-- Every halfword is one instruction: `h[15:11]`, then the bits that tell the rows of R113 with that start apart. -/
def decodeNarrow (h : Half) : Instr :=
  match h.getLsbD 15, h.getLsbD 14, h.getLsbD 13, h.getLsbD 12, h.getLsbD 11 with
  | false, false, false, false, false => .tLsl (h.extractLsb' 0 11)
  | false, false, false, false, true  => .tLsr (h.extractLsb' 0 11)
  | false, false, false, true , false => .tAsr (h.extractLsb' 0 11)
  | false, false, false, true , true  => decodeAddSub h
  | false, false, true , false, false => .tMovImm (h.extractLsb' 0 11)
  | false, false, true , false, true  => .tCmpImm (h.extractLsb' 0 11)
  | false, false, true , true , false => .tAddImm8 (h.extractLsb' 0 11)
  | false, false, true , true , true  => .tSubImm8 (h.extractLsb' 0 11)
  | false, true , false, false, false => if h.getLsbD 10 then decodeHiReg h else decodeAlu h
  | false, true , false, false, true  => .tLdrPc (h.extractLsb' 0 11)
  | false, true , false, true , false => decodeRegOffset h
  | false, true , false, true , true  => decodeRegOffset h
  | false, true , true , false, false => .tStrImm (h.extractLsb' 0 11)
  | false, true , true , false, true  => .tLdrImm (h.extractLsb' 0 11)
  | false, true , true , true , false => .tStrbImm (h.extractLsb' 0 11)
  | false, true , true , true , true  => .tLdrbImm (h.extractLsb' 0 11)
  | true , false, false, false, false => .tStrhImm (h.extractLsb' 0 11)
  | true , false, false, false, true  => .tLdrhImm (h.extractLsb' 0 11)
  | true , false, false, true , false => .tStrSp (h.extractLsb' 0 11)
  | true , false, false, true , true  => .tLdrSp (h.extractLsb' 0 11)
  | true , false, true , false, false => .tAddPc (h.extractLsb' 0 11)
  | true , false, true , false, true  => .tAddSp (h.extractLsb' 0 11)
  | true , false, true , true , false => decodeB0 h
  | true , false, true , true , true  => decodeB8 h
  | true , true , false, false, false => .tStmia (h.extractLsb' 0 11)
  | true , true , false, false, true  => .tLdmia (h.extractLsb' 0 11)
  | true , true , false, true , false => decodeD0 h
  | true , true , false, true , true  => decodeD8 h
  | true , true , true , false, false => .tBThumb (h.extractLsb' 0 11)
  | true , true , true , false, true  => .narrowUndefE8Ef (h.extractLsb' 0 11)
  | true , true , true , true , false => .tBlPrefix (h.extractLsb' 0 11)
  | true , true , true , true , true  => .tBlSuffix (h.extractLsb' 0 11)

/-! ## Facts of an instruction -/

/-- The format class of an instruction (R102, R113, R171). -/
def Instr.cls : Instr → FormatClass
  | .b _ _ => .wide .branch
  | .bl _ _ => .wide .branch
  | .bx _ _ => .wide .branchExchange
  | .bxR15 _ => .wide .branchExchange
  | .mul _ _ => .wide .multiply
  | .mla _ _ => .wide .multiply
  | .and _ _ => .wide .dataProcessing
  | .eor _ _ => .wide .dataProcessing
  | .sub _ _ => .wide .dataProcessing
  | .rsb _ _ => .wide .dataProcessing
  | .add _ _ => .wide .dataProcessing
  | .adc _ _ => .wide .dataProcessing
  | .sbc _ _ => .wide .dataProcessing
  | .rsc _ _ => .wide .dataProcessing
  | .tst _ _ => .wide .dataProcessing
  | .teq _ _ => .wide .dataProcessing
  | .cmp _ _ => .wide .dataProcessing
  | .cmn _ _ => .wide .dataProcessing
  | .orr _ _ => .wide .dataProcessing
  | .mov _ _ => .wide .dataProcessing
  | .bic _ _ => .wide .dataProcessing
  | .mvn _ _ => .wide .dataProcessing
  | .mrs _ _ _ => .wide .dataProcessing
  | .msrReg _ _ _ _ => .wide .dataProcessing
  | .msrImm _ _ _ _ => .wide .dataProcessing
  | .umull _ _ => .wide .multiplyLong
  | .umlal _ _ => .wide .multiplyLong
  | .smull _ _ => .wide .multiplyLong
  | .smlal _ _ => .wide .multiplyLong
  | .swp _ _ => .wide .singleDataSwap
  | .swpb _ _ => .wide .singleDataSwap
  | .strhReg _ _ => .wide .halfwordRegOffset
  | .strhImm _ _ => .wide .halfwordImmOffset
  | .ldrhReg _ _ => .wide .halfwordRegOffset
  | .ldrhImm _ _ => .wide .halfwordImmOffset
  | .ldrsbReg _ _ => .wide .halfwordRegOffset
  | .ldrsbImm _ _ => .wide .halfwordImmOffset
  | .ldrshReg _ _ => .wide .halfwordRegOffset
  | .ldrshImm _ _ => .wide .halfwordImmOffset
  | .hdtL0Sh10Reg _ _ => .wide .halfwordRegOffset
  | .hdtL0Sh10Imm _ _ => .wide .halfwordImmOffset
  | .hdtL0Sh11Reg _ _ => .wide .halfwordRegOffset
  | .hdtL0Sh11Imm _ _ => .wide .halfwordImmOffset
  | .undefined000 _ _ => .wide .undefined
  | .undefined011 _ _ => .wide .undefined
  | .str _ _ => .wide .singleDataTransfer
  | .ldr _ _ => .wide .singleDataTransfer
  | .strb _ _ => .wide .singleDataTransfer
  | .ldrb _ _ => .wide .singleDataTransfer
  | .stm _ _ => .wide .blockDataTransfer
  | .ldm _ _ => .wide .blockDataTransfer
  | .stc _ _ => .wide .coprocDataTransfer
  | .ldc _ _ => .wide .coprocDataTransfer
  | .cdp _ _ => .wide .coprocDataOperation
  | .mcr _ _ => .wide .coprocRegisterTransfer
  | .mrc _ _ => .wide .coprocRegisterTransfer
  | .swi _ _ => .wide .softwareInterrupt
  | .tLsl _ => .narrow .t1
  | .tLsr _ => .narrow .t1
  | .tAsr _ => .narrow .t1
  | .tAddReg _ => .narrow .t2
  | .tSubReg _ => .narrow .t2
  | .tAddImm3 _ => .narrow .t2
  | .tSubImm3 _ => .narrow .t2
  | .tMovImm _ => .narrow .t3
  | .tCmpImm _ => .narrow .t3
  | .tAddImm8 _ => .narrow .t3
  | .tSubImm8 _ => .narrow .t3
  | .tAndAlu _ => .narrow .t4
  | .tEorAlu _ => .narrow .t4
  | .tLslAlu _ => .narrow .t4
  | .tLsrAlu _ => .narrow .t4
  | .tAsrAlu _ => .narrow .t4
  | .tAdcAlu _ => .narrow .t4
  | .tSbcAlu _ => .narrow .t4
  | .tRorAlu _ => .narrow .t4
  | .tTstAlu _ => .narrow .t4
  | .tNegAlu _ => .narrow .t4
  | .tCmpAlu _ => .narrow .t4
  | .tCmnAlu _ => .narrow .t4
  | .tOrrAlu _ => .narrow .t4
  | .tMulAlu _ => .narrow .t4
  | .tBicAlu _ => .narrow .t4
  | .tMvnAlu _ => .narrow .t4
  | .tAddHi _ => .narrow .t5
  | .tCmpHi _ => .narrow .t5
  | .tMovHi _ => .narrow .t5
  | .tBx _ => .narrow .t5
  | .tLdrPc _ => .narrow .t6
  | .tStrReg _ => .narrow .t7
  | .tStrbReg _ => .narrow .t7
  | .tLdrReg _ => .narrow .t7
  | .tLdrbReg _ => .narrow .t7
  | .tStrhReg _ => .narrow .t8
  | .tLdsbReg _ => .narrow .t8
  | .tLdrhReg _ => .narrow .t8
  | .tLdshReg _ => .narrow .t8
  | .tStrImm _ => .narrow .t9
  | .tLdrImm _ => .narrow .t9
  | .tStrbImm _ => .narrow .t9
  | .tLdrbImm _ => .narrow .t9
  | .tStrhImm _ => .narrow .t10
  | .tLdrhImm _ => .narrow .t10
  | .tStrSp _ => .narrow .t11
  | .tLdrSp _ => .narrow .t11
  | .tAddPc _ => .narrow .t12
  | .tAddSp _ => .narrow .t12
  | .tAddSpImm _ => .narrow .t13
  | .tPush _ => .narrow .t14
  | .tPop _ => .narrow .t14
  | .tStmia _ => .narrow .t15
  | .tLdmia _ => .narrow .t15
  | .tBeq _ => .narrow .t16
  | .tBne _ => .narrow .t16
  | .tBcs _ => .narrow .t16
  | .tBcc _ => .narrow .t16
  | .tBmi _ => .narrow .t16
  | .tBpl _ => .narrow .t16
  | .tBvs _ => .narrow .t16
  | .tBvc _ => .narrow .t16
  | .tBhi _ => .narrow .t16
  | .tBls _ => .narrow .t16
  | .tBge _ => .narrow .t16
  | .tBlt _ => .narrow .t16
  | .tBgt _ => .narrow .t16
  | .tBle _ => .narrow .t16
  | .tSwiThumb _ => .narrow .t17
  | .tBThumb _ => .narrow .t18
  | .tBlPrefix _ => .narrow .t19
  | .tBlSuffix _ => .narrow .t19
  | .narrowUndefB1 _ => .narrow .undefined
  | .narrowUndefB2 _ => .narrow .undefined
  | .narrowUndefB3 _ => .narrow .undefined
  | .narrowUndefB6 _ => .narrow .undefined
  | .narrowUndefB7 _ => .narrow .undefined
  | .narrowUndefB8 _ => .narrow .undefined
  | .narrowUndefB9 _ => .narrow .undefined
  | .narrowUndefBa _ => .narrow .undefined
  | .narrowUndefBb _ => .narrow .undefined
  | .narrowUndefBe _ => .narrow .undefined
  | .narrowUndefBf _ => .narrow .undefined
  | .narrowUndefDe _ => .narrow .undefined
  | .narrowUndefE8Ef _ => .narrow .undefined

/-- The condition of a Wide instruction (R107); a Narrow one has none (40_dispatch.md R137). -/
def Instr.cond : Instr → Option Cond
  | .b c _ => some c
  | .bl c _ => some c
  | .bx c _ => some c
  | .bxR15 c => some c
  | .mul c _ => some c
  | .mla c _ => some c
  | .and c _ => some c
  | .eor c _ => some c
  | .sub c _ => some c
  | .rsb c _ => some c
  | .add c _ => some c
  | .adc c _ => some c
  | .sbc c _ => some c
  | .rsc c _ => some c
  | .tst c _ => some c
  | .teq c _ => some c
  | .cmp c _ => some c
  | .cmn c _ => some c
  | .orr c _ => some c
  | .mov c _ => some c
  | .bic c _ => some c
  | .mvn c _ => some c
  | .mrs c _ _ => some c
  | .msrReg c _ _ _ => some c
  | .msrImm c _ _ _ => some c
  | .umull c _ => some c
  | .umlal c _ => some c
  | .smull c _ => some c
  | .smlal c _ => some c
  | .swp c _ => some c
  | .swpb c _ => some c
  | .strhReg c _ => some c
  | .strhImm c _ => some c
  | .ldrhReg c _ => some c
  | .ldrhImm c _ => some c
  | .ldrsbReg c _ => some c
  | .ldrsbImm c _ => some c
  | .ldrshReg c _ => some c
  | .ldrshImm c _ => some c
  | .hdtL0Sh10Reg c _ => some c
  | .hdtL0Sh10Imm c _ => some c
  | .hdtL0Sh11Reg c _ => some c
  | .hdtL0Sh11Imm c _ => some c
  | .undefined000 c _ => some c
  | .undefined011 c _ => some c
  | .str c _ => some c
  | .ldr c _ => some c
  | .strb c _ => some c
  | .ldrb c _ => some c
  | .stm c _ => some c
  | .ldm c _ => some c
  | .stc c _ => some c
  | .ldc c _ => some c
  | .cdp c _ => some c
  | .mcr c _ => some c
  | .mrc c _ => some c
  | .swi c _ => some c
  | .tLsl _ => none
  | .tLsr _ => none
  | .tAsr _ => none
  | .tAddReg _ => none
  | .tSubReg _ => none
  | .tAddImm3 _ => none
  | .tSubImm3 _ => none
  | .tMovImm _ => none
  | .tCmpImm _ => none
  | .tAddImm8 _ => none
  | .tSubImm8 _ => none
  | .tAndAlu _ => none
  | .tEorAlu _ => none
  | .tLslAlu _ => none
  | .tLsrAlu _ => none
  | .tAsrAlu _ => none
  | .tAdcAlu _ => none
  | .tSbcAlu _ => none
  | .tRorAlu _ => none
  | .tTstAlu _ => none
  | .tNegAlu _ => none
  | .tCmpAlu _ => none
  | .tCmnAlu _ => none
  | .tOrrAlu _ => none
  | .tMulAlu _ => none
  | .tBicAlu _ => none
  | .tMvnAlu _ => none
  | .tAddHi _ => none
  | .tCmpHi _ => none
  | .tMovHi _ => none
  | .tBx _ => none
  | .tLdrPc _ => none
  | .tStrReg _ => none
  | .tStrbReg _ => none
  | .tLdrReg _ => none
  | .tLdrbReg _ => none
  | .tStrhReg _ => none
  | .tLdsbReg _ => none
  | .tLdrhReg _ => none
  | .tLdshReg _ => none
  | .tStrImm _ => none
  | .tLdrImm _ => none
  | .tStrbImm _ => none
  | .tLdrbImm _ => none
  | .tStrhImm _ => none
  | .tLdrhImm _ => none
  | .tStrSp _ => none
  | .tLdrSp _ => none
  | .tAddPc _ => none
  | .tAddSp _ => none
  | .tAddSpImm _ => none
  | .tPush _ => none
  | .tPop _ => none
  | .tStmia _ => none
  | .tLdmia _ => none
  | .tBeq _ => none
  | .tBne _ => none
  | .tBcs _ => none
  | .tBcc _ => none
  | .tBmi _ => none
  | .tBpl _ => none
  | .tBvs _ => none
  | .tBvc _ => none
  | .tBhi _ => none
  | .tBls _ => none
  | .tBge _ => none
  | .tBlt _ => none
  | .tBgt _ => none
  | .tBle _ => none
  | .tSwiThumb _ => none
  | .tBThumb _ => none
  | .tBlPrefix _ => none
  | .tBlSuffix _ => none
  | .narrowUndefB1 _ => none
  | .narrowUndefB2 _ => none
  | .narrowUndefB3 _ => none
  | .narrowUndefB6 _ => none
  | .narrowUndefB7 _ => none
  | .narrowUndefB8 _ => none
  | .narrowUndefB9 _ => none
  | .narrowUndefBa _ => none
  | .narrowUndefBb _ => none
  | .narrowUndefBe _ => none
  | .narrowUndefBf _ => none
  | .narrowUndefDe _ => none
  | .narrowUndefE8Ef _ => none

/-- The instruction set whose words encode an instruction. -/
def Instr.isa (i : Instr) : InstrSet :=
  match i.cls with
  | .wide _ => .wide
  | .narrow _ => .narrow

/-- The classes that have a handler (40_dispatch.md R136). -/
def WideClass.hasHandler : WideClass → Bool
  | .branch | .branchExchange | .multiply => true
  | .dataProcessing | .multiplyLong | .singleDataSwap | .halfwordRegOffset | .halfwordImmOffset | .singleDataTransfer
  | .undefined | .blockDataTransfer | .coprocDataTransfer | .coprocDataOperation | .coprocRegisterTransfer
  | .softwareInterrupt => false

/-- An alias row's term as the DataProcessing instruction its word is (R119); every other term is itself. -/
def Instr.core : Instr → Instr
  | .mrs c ps rd =>
      let f : DpFields := { i := false, s := false, rn := 15, rd := rd, operand2 := 0 }
      if ps then .cmp c f else .tst c f
  | .msrReg c pd fieldmask rm =>
      let f : DpFields := { i := false, s := false, rn := fieldmask, rd := 15, operand2 := rm.setWidth 12 }
      if pd then .cmn c f else .teq c f
  | .msrImm c pd fieldmask imm =>
      let f : DpFields := { i := true, s := false, rn := fieldmask, rd := 15, operand2 := imm }
      if pd then .cmn c f else .teq c f
  | .b c offset24 => .b c offset24
  | .bl c offset24 => .bl c offset24
  | .bx c rm => .bx c rm
  | .bxR15 c => .bxR15 c
  | .mul c f => .mul c f
  | .mla c f => .mla c f
  | .and c f => .and c f
  | .eor c f => .eor c f
  | .sub c f => .sub c f
  | .rsb c f => .rsb c f
  | .add c f => .add c f
  | .adc c f => .adc c f
  | .sbc c f => .sbc c f
  | .rsc c f => .rsc c f
  | .tst c f => .tst c f
  | .teq c f => .teq c f
  | .cmp c f => .cmp c f
  | .cmn c f => .cmn c f
  | .orr c f => .orr c f
  | .mov c f => .mov c f
  | .bic c f => .bic c f
  | .mvn c f => .mvn c f
  | .umull c f => .umull c f
  | .umlal c f => .umlal c f
  | .smull c f => .smull c f
  | .smlal c f => .smlal c f
  | .swp c f => .swp c f
  | .swpb c f => .swpb c f
  | .strhReg c f => .strhReg c f
  | .strhImm c f => .strhImm c f
  | .ldrhReg c f => .ldrhReg c f
  | .ldrhImm c f => .ldrhImm c f
  | .ldrsbReg c f => .ldrsbReg c f
  | .ldrsbImm c f => .ldrsbImm c f
  | .ldrshReg c f => .ldrshReg c f
  | .ldrshImm c f => .ldrshImm c f
  | .hdtL0Sh10Reg c f => .hdtL0Sh10Reg c f
  | .hdtL0Sh10Imm c f => .hdtL0Sh10Imm c f
  | .hdtL0Sh11Reg c f => .hdtL0Sh11Reg c f
  | .hdtL0Sh11Imm c f => .hdtL0Sh11Imm c f
  | .undefined000 c f => .undefined000 c f
  | .undefined011 c f => .undefined011 c f
  | .str c f => .str c f
  | .ldr c f => .ldr c f
  | .strb c f => .strb c f
  | .ldrb c f => .ldrb c f
  | .stm c f => .stm c f
  | .ldm c f => .ldm c f
  | .stc c f => .stc c f
  | .ldc c f => .ldc c f
  | .cdp c f => .cdp c f
  | .mcr c f => .mcr c f
  | .mrc c f => .mrc c f
  | .swi c comment => .swi c comment
  | .tLsl p => .tLsl p
  | .tLsr p => .tLsr p
  | .tAsr p => .tAsr p
  | .tAddReg p => .tAddReg p
  | .tSubReg p => .tSubReg p
  | .tAddImm3 p => .tAddImm3 p
  | .tSubImm3 p => .tSubImm3 p
  | .tMovImm p => .tMovImm p
  | .tCmpImm p => .tCmpImm p
  | .tAddImm8 p => .tAddImm8 p
  | .tSubImm8 p => .tSubImm8 p
  | .tAndAlu p => .tAndAlu p
  | .tEorAlu p => .tEorAlu p
  | .tLslAlu p => .tLslAlu p
  | .tLsrAlu p => .tLsrAlu p
  | .tAsrAlu p => .tAsrAlu p
  | .tAdcAlu p => .tAdcAlu p
  | .tSbcAlu p => .tSbcAlu p
  | .tRorAlu p => .tRorAlu p
  | .tTstAlu p => .tTstAlu p
  | .tNegAlu p => .tNegAlu p
  | .tCmpAlu p => .tCmpAlu p
  | .tCmnAlu p => .tCmnAlu p
  | .tOrrAlu p => .tOrrAlu p
  | .tMulAlu p => .tMulAlu p
  | .tBicAlu p => .tBicAlu p
  | .tMvnAlu p => .tMvnAlu p
  | .tAddHi p => .tAddHi p
  | .tCmpHi p => .tCmpHi p
  | .tMovHi p => .tMovHi p
  | .tBx p => .tBx p
  | .tLdrPc p => .tLdrPc p
  | .tStrReg p => .tStrReg p
  | .tStrbReg p => .tStrbReg p
  | .tLdrReg p => .tLdrReg p
  | .tLdrbReg p => .tLdrbReg p
  | .tStrhReg p => .tStrhReg p
  | .tLdsbReg p => .tLdsbReg p
  | .tLdrhReg p => .tLdrhReg p
  | .tLdshReg p => .tLdshReg p
  | .tStrImm p => .tStrImm p
  | .tLdrImm p => .tLdrImm p
  | .tStrbImm p => .tStrbImm p
  | .tLdrbImm p => .tLdrbImm p
  | .tStrhImm p => .tStrhImm p
  | .tLdrhImm p => .tLdrhImm p
  | .tStrSp p => .tStrSp p
  | .tLdrSp p => .tLdrSp p
  | .tAddPc p => .tAddPc p
  | .tAddSp p => .tAddSp p
  | .tAddSpImm p => .tAddSpImm p
  | .tPush p => .tPush p
  | .tPop p => .tPop p
  | .tStmia p => .tStmia p
  | .tLdmia p => .tLdmia p
  | .tBeq p => .tBeq p
  | .tBne p => .tBne p
  | .tBcs p => .tBcs p
  | .tBcc p => .tBcc p
  | .tBmi p => .tBmi p
  | .tBpl p => .tBpl p
  | .tBvs p => .tBvs p
  | .tBvc p => .tBvc p
  | .tBhi p => .tBhi p
  | .tBls p => .tBls p
  | .tBge p => .tBge p
  | .tBlt p => .tBlt p
  | .tBgt p => .tBgt p
  | .tBle p => .tBle p
  | .tSwiThumb p => .tSwiThumb p
  | .tBThumb p => .tBThumb p
  | .tBlPrefix p => .tBlPrefix p
  | .tBlSuffix p => .tBlSuffix p
  | .narrowUndefB1 p => .narrowUndefB1 p
  | .narrowUndefB2 p => .narrowUndefB2 p
  | .narrowUndefB3 p => .narrowUndefB3 p
  | .narrowUndefB6 p => .narrowUndefB6 p
  | .narrowUndefB7 p => .narrowUndefB7 p
  | .narrowUndefB8 p => .narrowUndefB8 p
  | .narrowUndefB9 p => .narrowUndefB9 p
  | .narrowUndefBa p => .narrowUndefBa p
  | .narrowUndefBb p => .narrowUndefBb p
  | .narrowUndefBe p => .narrowUndefBe p
  | .narrowUndefBf p => .narrowUndefBf p
  | .narrowUndefDe p => .narrowUndefDe p
  | .narrowUndefE8Ef p => .narrowUndefE8Ef p

/-- A row of spec/opcode_table.json: a word belongs to it only if `w &&& mask = pattern` (R119). -/
structure OpcodeRow where
  mask : Word
  pattern : Word
  deriving DecidableEq, Repr

/-- The mask and match of an instruction's row in the opcode table. Narrow rows stand in bits 15:0. The rows T_PUSH and
T_POP have the mask `0xFE00` here, not the table's `0xF600` (DEDUCED, safe: log entry 11). -/
def Instr.row : Instr → OpcodeRow
  | .b _ _ => ⟨0x0F000000, 0x0A000000⟩
  | .bl _ _ => ⟨0x0F000000, 0x0B000000⟩
  | .bx _ _ => ⟨0x0FFFFFF0, 0x012FFF10⟩
  | .bxR15 _ => ⟨0x0FFFFFFF, 0x012FFF1F⟩
  | .mul _ _ => ⟨0x0FE000F0, 0x00000090⟩
  | .mla _ _ => ⟨0x0FE000F0, 0x00200090⟩
  | .and _ _ => ⟨0x0DE00000, 0x00000000⟩
  | .eor _ _ => ⟨0x0DE00000, 0x00200000⟩
  | .sub _ _ => ⟨0x0DE00000, 0x00400000⟩
  | .rsb _ _ => ⟨0x0DE00000, 0x00600000⟩
  | .add _ _ => ⟨0x0DE00000, 0x00800000⟩
  | .adc _ _ => ⟨0x0DE00000, 0x00A00000⟩
  | .sbc _ _ => ⟨0x0DE00000, 0x00C00000⟩
  | .rsc _ _ => ⟨0x0DE00000, 0x00E00000⟩
  | .tst _ _ => ⟨0x0DE00000, 0x01000000⟩
  | .teq _ _ => ⟨0x0DE00000, 0x01200000⟩
  | .cmp _ _ => ⟨0x0DE00000, 0x01400000⟩
  | .cmn _ _ => ⟨0x0DE00000, 0x01600000⟩
  | .orr _ _ => ⟨0x0DE00000, 0x01800000⟩
  | .mov _ _ => ⟨0x0DE00000, 0x01A00000⟩
  | .bic _ _ => ⟨0x0DE00000, 0x01C00000⟩
  | .mvn _ _ => ⟨0x0DE00000, 0x01E00000⟩
  | .mrs _ _ _ => ⟨0x0FBF0FFF, 0x010F0000⟩
  | .msrReg _ _ _ _ => ⟨0x0FB0FFF0, 0x0120F000⟩
  | .msrImm _ _ _ _ => ⟨0x0FB0F000, 0x0320F000⟩
  | .umull _ _ => ⟨0x0FE000F0, 0x00800090⟩
  | .umlal _ _ => ⟨0x0FE000F0, 0x00A00090⟩
  | .smull _ _ => ⟨0x0FE000F0, 0x00C00090⟩
  | .smlal _ _ => ⟨0x0FE000F0, 0x00E00090⟩
  | .swp _ _ => ⟨0x0FF00FF0, 0x01000090⟩
  | .swpb _ _ => ⟨0x0FF00FF0, 0x01400090⟩
  | .strhReg _ _ => ⟨0x0E500FF0, 0x000000B0⟩
  | .strhImm _ _ => ⟨0x0E5000F0, 0x004000B0⟩
  | .ldrhReg _ _ => ⟨0x0E500FF0, 0x001000B0⟩
  | .ldrhImm _ _ => ⟨0x0E5000F0, 0x005000B0⟩
  | .ldrsbReg _ _ => ⟨0x0E500FF0, 0x001000D0⟩
  | .ldrsbImm _ _ => ⟨0x0E5000F0, 0x005000D0⟩
  | .ldrshReg _ _ => ⟨0x0E500FF0, 0x001000F0⟩
  | .ldrshImm _ _ => ⟨0x0E5000F0, 0x005000F0⟩
  | .hdtL0Sh10Reg _ _ => ⟨0x0E500FF0, 0x000000D0⟩
  | .hdtL0Sh10Imm _ _ => ⟨0x0E5000F0, 0x004000D0⟩
  | .hdtL0Sh11Reg _ _ => ⟨0x0E500FF0, 0x000000F0⟩
  | .hdtL0Sh11Imm _ _ => ⟨0x0E5000F0, 0x004000F0⟩
  | .undefined000 _ _ => ⟨0x0E000090, 0x00000090⟩
  | .undefined011 _ _ => ⟨0x0E000010, 0x06000010⟩
  | .str _ _ => ⟨0x0C500000, 0x04000000⟩
  | .ldr _ _ => ⟨0x0C500000, 0x04100000⟩
  | .strb _ _ => ⟨0x0C500000, 0x04400000⟩
  | .ldrb _ _ => ⟨0x0C500000, 0x04500000⟩
  | .stm _ _ => ⟨0x0E100000, 0x08000000⟩
  | .ldm _ _ => ⟨0x0E100000, 0x08100000⟩
  | .stc _ _ => ⟨0x0E100000, 0x0C000000⟩
  | .ldc _ _ => ⟨0x0E100000, 0x0C100000⟩
  | .cdp _ _ => ⟨0x0F000010, 0x0E000000⟩
  | .mcr _ _ => ⟨0x0F100010, 0x0E000010⟩
  | .mrc _ _ => ⟨0x0F100010, 0x0E100010⟩
  | .swi _ _ => ⟨0x0F000000, 0x0F000000⟩
  | .tLsl _ => ⟨0xF800, 0x0000⟩
  | .tLsr _ => ⟨0xF800, 0x0800⟩
  | .tAsr _ => ⟨0xF800, 0x1000⟩
  | .tAddReg _ => ⟨0xFE00, 0x1800⟩
  | .tSubReg _ => ⟨0xFE00, 0x1A00⟩
  | .tAddImm3 _ => ⟨0xFE00, 0x1C00⟩
  | .tSubImm3 _ => ⟨0xFE00, 0x1E00⟩
  | .tMovImm _ => ⟨0xF800, 0x2000⟩
  | .tCmpImm _ => ⟨0xF800, 0x2800⟩
  | .tAddImm8 _ => ⟨0xF800, 0x3000⟩
  | .tSubImm8 _ => ⟨0xF800, 0x3800⟩
  | .tAndAlu _ => ⟨0xFFC0, 0x4000⟩
  | .tEorAlu _ => ⟨0xFFC0, 0x4040⟩
  | .tLslAlu _ => ⟨0xFFC0, 0x4080⟩
  | .tLsrAlu _ => ⟨0xFFC0, 0x40C0⟩
  | .tAsrAlu _ => ⟨0xFFC0, 0x4100⟩
  | .tAdcAlu _ => ⟨0xFFC0, 0x4140⟩
  | .tSbcAlu _ => ⟨0xFFC0, 0x4180⟩
  | .tRorAlu _ => ⟨0xFFC0, 0x41C0⟩
  | .tTstAlu _ => ⟨0xFFC0, 0x4200⟩
  | .tNegAlu _ => ⟨0xFFC0, 0x4240⟩
  | .tCmpAlu _ => ⟨0xFFC0, 0x4280⟩
  | .tCmnAlu _ => ⟨0xFFC0, 0x42C0⟩
  | .tOrrAlu _ => ⟨0xFFC0, 0x4300⟩
  | .tMulAlu _ => ⟨0xFFC0, 0x4340⟩
  | .tBicAlu _ => ⟨0xFFC0, 0x4380⟩
  | .tMvnAlu _ => ⟨0xFFC0, 0x43C0⟩
  | .tAddHi _ => ⟨0xFF00, 0x4400⟩
  | .tCmpHi _ => ⟨0xFF00, 0x4500⟩
  | .tMovHi _ => ⟨0xFF00, 0x4600⟩
  | .tBx _ => ⟨0xFF00, 0x4700⟩
  | .tLdrPc _ => ⟨0xF800, 0x4800⟩
  | .tStrReg _ => ⟨0xFE00, 0x5000⟩
  | .tStrbReg _ => ⟨0xFE00, 0x5400⟩
  | .tLdrReg _ => ⟨0xFE00, 0x5800⟩
  | .tLdrbReg _ => ⟨0xFE00, 0x5C00⟩
  | .tStrhReg _ => ⟨0xFE00, 0x5200⟩
  | .tLdsbReg _ => ⟨0xFE00, 0x5600⟩
  | .tLdrhReg _ => ⟨0xFE00, 0x5A00⟩
  | .tLdshReg _ => ⟨0xFE00, 0x5E00⟩
  | .tStrImm _ => ⟨0xF800, 0x6000⟩
  | .tLdrImm _ => ⟨0xF800, 0x6800⟩
  | .tStrbImm _ => ⟨0xF800, 0x7000⟩
  | .tLdrbImm _ => ⟨0xF800, 0x7800⟩
  | .tStrhImm _ => ⟨0xF800, 0x8000⟩
  | .tLdrhImm _ => ⟨0xF800, 0x8800⟩
  | .tStrSp _ => ⟨0xF800, 0x9000⟩
  | .tLdrSp _ => ⟨0xF800, 0x9800⟩
  | .tAddPc _ => ⟨0xF800, 0xA000⟩
  | .tAddSp _ => ⟨0xF800, 0xA800⟩
  | .tAddSpImm _ => ⟨0xFF00, 0xB000⟩
  | .tPush _ => ⟨0xFE00, 0xB400⟩
  | .tPop _ => ⟨0xFE00, 0xBC00⟩
  | .tStmia _ => ⟨0xF800, 0xC000⟩
  | .tLdmia _ => ⟨0xF800, 0xC800⟩
  | .tBeq _ => ⟨0xFF00, 0xD000⟩
  | .tBne _ => ⟨0xFF00, 0xD100⟩
  | .tBcs _ => ⟨0xFF00, 0xD200⟩
  | .tBcc _ => ⟨0xFF00, 0xD300⟩
  | .tBmi _ => ⟨0xFF00, 0xD400⟩
  | .tBpl _ => ⟨0xFF00, 0xD500⟩
  | .tBvs _ => ⟨0xFF00, 0xD600⟩
  | .tBvc _ => ⟨0xFF00, 0xD700⟩
  | .tBhi _ => ⟨0xFF00, 0xD800⟩
  | .tBls _ => ⟨0xFF00, 0xD900⟩
  | .tBge _ => ⟨0xFF00, 0xDA00⟩
  | .tBlt _ => ⟨0xFF00, 0xDB00⟩
  | .tBgt _ => ⟨0xFF00, 0xDC00⟩
  | .tBle _ => ⟨0xFF00, 0xDD00⟩
  | .tSwiThumb _ => ⟨0xFF00, 0xDF00⟩
  | .tBThumb _ => ⟨0xF800, 0xE000⟩
  | .tBlPrefix _ => ⟨0xF800, 0xF000⟩
  | .tBlSuffix _ => ⟨0xF800, 0xF800⟩
  | .narrowUndefB1 _ => ⟨0xFF00, 0xB100⟩
  | .narrowUndefB2 _ => ⟨0xFF00, 0xB200⟩
  | .narrowUndefB3 _ => ⟨0xFF00, 0xB300⟩
  | .narrowUndefB6 _ => ⟨0xFF00, 0xB600⟩
  | .narrowUndefB7 _ => ⟨0xFF00, 0xB700⟩
  | .narrowUndefB8 _ => ⟨0xFF00, 0xB800⟩
  | .narrowUndefB9 _ => ⟨0xFF00, 0xB900⟩
  | .narrowUndefBa _ => ⟨0xFF00, 0xBA00⟩
  | .narrowUndefBb _ => ⟨0xFF00, 0xBB00⟩
  | .narrowUndefBe _ => ⟨0xFF00, 0xBE00⟩
  | .narrowUndefBf _ => ⟨0xFF00, 0xBF00⟩
  | .narrowUndefDe _ => ⟨0xFF00, 0xDE00⟩
  | .narrowUndefE8Ef _ => ⟨0xF800, 0xE800⟩

/-! ## The encoder -/

/-- A field put at bit `lo` of a word. -/
def put {k : Nat} (x : BitVec k) (lo : Nat) : Word := x.setWidth 32 <<< lo

/-- A one-bit field put at bit `lo` of a word. -/
def putBit (x : Bool) (lo : Nat) : Word := (BitVec.ofBool x).setWidth 32 <<< lo

def Cond.bits (c : Cond) : Word := put c.code 28

def DpFields.bits (f : DpFields) : Word :=
  putBit f.i 25 ||| putBit f.s 20 ||| put f.rn 16 ||| put f.rd 12 ||| put f.operand2 0

def MulFields.bits (f : MulFields) : Word :=
  putBit f.s 20 ||| put f.rd 16 ||| put f.rn 12 ||| put f.rs 8 ||| put f.rm 0

def MulLongFields.bits (f : MulLongFields) : Word :=
  putBit f.s 20 ||| put f.rdHi 16 ||| put f.rdLo 12 ||| put f.rs 8 ||| put f.rm 0

def SwapFields.bits (f : SwapFields) : Word :=
  put f.rn 16 ||| put f.rd 12 ||| put f.rm 0

def HalfRegFields.bits (f : HalfRegFields) : Word :=
  putBit f.p 24 ||| putBit f.u 23 ||| putBit f.w 21 ||| put f.rn 16 ||| put f.rd 12 ||| put f.rm 0

def HalfImmFields.bits (f : HalfImmFields) : Word :=
  putBit f.p 24 ||| putBit f.u 23 ||| putBit f.w 21 ||| put f.rn 16 ||| put f.rd 12
    ||| put (f.offset8.extractLsb' 4 4) 8 ||| put (f.offset8.extractLsb' 0 4) 0

def TransferFields.bits (f : TransferFields) : Word :=
  putBit f.i 25 ||| putBit f.p 24 ||| putBit f.u 23 ||| putBit f.w 21 ||| put f.rn 16 ||| put f.rd 12
    ||| put f.offset12 0

def BlockFields.bits (f : BlockFields) : Word :=
  putBit f.p 24 ||| putBit f.u 23 ||| putBit f.s 22 ||| putBit f.w 21 ||| put f.rn 16 ||| put f.rlist 0

def CoprocTransferFields.bits (f : CoprocTransferFields) : Word :=
  putBit f.p 24 ||| putBit f.u 23 ||| putBit f.n 22 ||| putBit f.w 21 ||| put f.rn 16 ||| put f.crd 12
    ||| put f.cpnum 8 ||| put f.offset8 0

def CoprocOpFields.bits (f : CoprocOpFields) : Word :=
  put f.cpopc 20 ||| put f.crn 16 ||| put f.crd 12 ||| put f.cpnum 8 ||| put f.cp 5 ||| put f.crm 0

def CoprocRegFields.bits (f : CoprocRegFields) : Word :=
  put f.cpopc 21 ||| put f.crn 16 ||| put f.rd 12 ||| put f.cpnum 8 ||| put f.cp 5 ||| put f.crm 0

def Undef000Bits.bits (f : Undef000Bits) : Word :=
  put f.hi 8 ||| put f.sh 5 ||| put f.lo 0

def Undef011Bits.bits (f : Undef011Bits) : Word :=
  put f.hi 5 ||| put f.lo 0

/-- The word of an instruction (R106, R113): its row's match, or-ed with its fields. A Narrow word stands in bits 15:0. -/
def encode : Instr → Word
  | .b c offset24 => 0x0A000000#32 ||| c.bits ||| put offset24 0
  | .bl c offset24 => 0x0B000000#32 ||| c.bits ||| put offset24 0
  | .bx c rm => 0x012FFF10#32 ||| c.bits ||| put rm 0
  | .bxR15 c => 0x012FFF1F#32 ||| c.bits
  | .mul c f => 0x00000090#32 ||| c.bits ||| f.bits
  | .mla c f => 0x00200090#32 ||| c.bits ||| f.bits
  | .and c f => 0x00000000#32 ||| c.bits ||| f.bits
  | .eor c f => 0x00200000#32 ||| c.bits ||| f.bits
  | .sub c f => 0x00400000#32 ||| c.bits ||| f.bits
  | .rsb c f => 0x00600000#32 ||| c.bits ||| f.bits
  | .add c f => 0x00800000#32 ||| c.bits ||| f.bits
  | .adc c f => 0x00A00000#32 ||| c.bits ||| f.bits
  | .sbc c f => 0x00C00000#32 ||| c.bits ||| f.bits
  | .rsc c f => 0x00E00000#32 ||| c.bits ||| f.bits
  | .tst c f => 0x01000000#32 ||| c.bits ||| f.bits
  | .teq c f => 0x01200000#32 ||| c.bits ||| f.bits
  | .cmp c f => 0x01400000#32 ||| c.bits ||| f.bits
  | .cmn c f => 0x01600000#32 ||| c.bits ||| f.bits
  | .orr c f => 0x01800000#32 ||| c.bits ||| f.bits
  | .mov c f => 0x01A00000#32 ||| c.bits ||| f.bits
  | .bic c f => 0x01C00000#32 ||| c.bits ||| f.bits
  | .mvn c f => 0x01E00000#32 ||| c.bits ||| f.bits
  | .mrs c ps rd => 0x010F0000#32 ||| c.bits ||| putBit ps 22 ||| put rd 12
  | .msrReg c pd fieldmask rm => 0x0120F000#32 ||| c.bits ||| putBit pd 22 ||| put fieldmask 16 ||| put rm 0
  | .msrImm c pd fieldmask imm => 0x0320F000#32 ||| c.bits ||| putBit pd 22 ||| put fieldmask 16 ||| put imm 0
  | .umull c f => 0x00800090#32 ||| c.bits ||| f.bits
  | .umlal c f => 0x00A00090#32 ||| c.bits ||| f.bits
  | .smull c f => 0x00C00090#32 ||| c.bits ||| f.bits
  | .smlal c f => 0x00E00090#32 ||| c.bits ||| f.bits
  | .swp c f => 0x01000090#32 ||| c.bits ||| f.bits
  | .swpb c f => 0x01400090#32 ||| c.bits ||| f.bits
  | .strhReg c f => 0x000000B0#32 ||| c.bits ||| f.bits
  | .strhImm c f => 0x004000B0#32 ||| c.bits ||| f.bits
  | .ldrhReg c f => 0x001000B0#32 ||| c.bits ||| f.bits
  | .ldrhImm c f => 0x005000B0#32 ||| c.bits ||| f.bits
  | .ldrsbReg c f => 0x001000D0#32 ||| c.bits ||| f.bits
  | .ldrsbImm c f => 0x005000D0#32 ||| c.bits ||| f.bits
  | .ldrshReg c f => 0x001000F0#32 ||| c.bits ||| f.bits
  | .ldrshImm c f => 0x005000F0#32 ||| c.bits ||| f.bits
  | .hdtL0Sh10Reg c f => 0x000000D0#32 ||| c.bits ||| f.bits
  | .hdtL0Sh10Imm c f => 0x004000D0#32 ||| c.bits ||| f.bits
  | .hdtL0Sh11Reg c f => 0x000000F0#32 ||| c.bits ||| f.bits
  | .hdtL0Sh11Imm c f => 0x004000F0#32 ||| c.bits ||| f.bits
  | .undefined000 c f => 0x00000090#32 ||| c.bits ||| f.bits
  | .undefined011 c f => 0x06000010#32 ||| c.bits ||| f.bits
  | .str c f => 0x04000000#32 ||| c.bits ||| f.bits
  | .ldr c f => 0x04100000#32 ||| c.bits ||| f.bits
  | .strb c f => 0x04400000#32 ||| c.bits ||| f.bits
  | .ldrb c f => 0x04500000#32 ||| c.bits ||| f.bits
  | .stm c f => 0x08000000#32 ||| c.bits ||| f.bits
  | .ldm c f => 0x08100000#32 ||| c.bits ||| f.bits
  | .stc c f => 0x0C000000#32 ||| c.bits ||| f.bits
  | .ldc c f => 0x0C100000#32 ||| c.bits ||| f.bits
  | .cdp c f => 0x0E000000#32 ||| c.bits ||| f.bits
  | .mcr c f => 0x0E000010#32 ||| c.bits ||| f.bits
  | .mrc c f => 0x0E100010#32 ||| c.bits ||| f.bits
  | .swi c comment => 0x0F000000#32 ||| c.bits ||| put comment 0
  | .tLsl p => 0x0000#32 ||| put p 0
  | .tLsr p => 0x0800#32 ||| put p 0
  | .tAsr p => 0x1000#32 ||| put p 0
  | .tAddReg p => 0x1800#32 ||| put p 0
  | .tSubReg p => 0x1A00#32 ||| put p 0
  | .tAddImm3 p => 0x1C00#32 ||| put p 0
  | .tSubImm3 p => 0x1E00#32 ||| put p 0
  | .tMovImm p => 0x2000#32 ||| put p 0
  | .tCmpImm p => 0x2800#32 ||| put p 0
  | .tAddImm8 p => 0x3000#32 ||| put p 0
  | .tSubImm8 p => 0x3800#32 ||| put p 0
  | .tAndAlu p => 0x4000#32 ||| put p 0
  | .tEorAlu p => 0x4040#32 ||| put p 0
  | .tLslAlu p => 0x4080#32 ||| put p 0
  | .tLsrAlu p => 0x40C0#32 ||| put p 0
  | .tAsrAlu p => 0x4100#32 ||| put p 0
  | .tAdcAlu p => 0x4140#32 ||| put p 0
  | .tSbcAlu p => 0x4180#32 ||| put p 0
  | .tRorAlu p => 0x41C0#32 ||| put p 0
  | .tTstAlu p => 0x4200#32 ||| put p 0
  | .tNegAlu p => 0x4240#32 ||| put p 0
  | .tCmpAlu p => 0x4280#32 ||| put p 0
  | .tCmnAlu p => 0x42C0#32 ||| put p 0
  | .tOrrAlu p => 0x4300#32 ||| put p 0
  | .tMulAlu p => 0x4340#32 ||| put p 0
  | .tBicAlu p => 0x4380#32 ||| put p 0
  | .tMvnAlu p => 0x43C0#32 ||| put p 0
  | .tAddHi p => 0x4400#32 ||| put p 0
  | .tCmpHi p => 0x4500#32 ||| put p 0
  | .tMovHi p => 0x4600#32 ||| put p 0
  | .tBx p => 0x4700#32 ||| put p 0
  | .tLdrPc p => 0x4800#32 ||| put p 0
  | .tStrReg p => 0x5000#32 ||| put p 0
  | .tStrbReg p => 0x5400#32 ||| put p 0
  | .tLdrReg p => 0x5800#32 ||| put p 0
  | .tLdrbReg p => 0x5C00#32 ||| put p 0
  | .tStrhReg p => 0x5200#32 ||| put p 0
  | .tLdsbReg p => 0x5600#32 ||| put p 0
  | .tLdrhReg p => 0x5A00#32 ||| put p 0
  | .tLdshReg p => 0x5E00#32 ||| put p 0
  | .tStrImm p => 0x6000#32 ||| put p 0
  | .tLdrImm p => 0x6800#32 ||| put p 0
  | .tStrbImm p => 0x7000#32 ||| put p 0
  | .tLdrbImm p => 0x7800#32 ||| put p 0
  | .tStrhImm p => 0x8000#32 ||| put p 0
  | .tLdrhImm p => 0x8800#32 ||| put p 0
  | .tStrSp p => 0x9000#32 ||| put p 0
  | .tLdrSp p => 0x9800#32 ||| put p 0
  | .tAddPc p => 0xA000#32 ||| put p 0
  | .tAddSp p => 0xA800#32 ||| put p 0
  | .tAddSpImm p => 0xB000#32 ||| put p 0
  | .tPush p => 0xB400#32 ||| put p 0
  | .tPop p => 0xBC00#32 ||| put p 0
  | .tStmia p => 0xC000#32 ||| put p 0
  | .tLdmia p => 0xC800#32 ||| put p 0
  | .tBeq p => 0xD000#32 ||| put p 0
  | .tBne p => 0xD100#32 ||| put p 0
  | .tBcs p => 0xD200#32 ||| put p 0
  | .tBcc p => 0xD300#32 ||| put p 0
  | .tBmi p => 0xD400#32 ||| put p 0
  | .tBpl p => 0xD500#32 ||| put p 0
  | .tBvs p => 0xD600#32 ||| put p 0
  | .tBvc p => 0xD700#32 ||| put p 0
  | .tBhi p => 0xD800#32 ||| put p 0
  | .tBls p => 0xD900#32 ||| put p 0
  | .tBge p => 0xDA00#32 ||| put p 0
  | .tBlt p => 0xDB00#32 ||| put p 0
  | .tBgt p => 0xDC00#32 ||| put p 0
  | .tBle p => 0xDD00#32 ||| put p 0
  | .tSwiThumb p => 0xDF00#32 ||| put p 0
  | .tBThumb p => 0xE000#32 ||| put p 0
  | .tBlPrefix p => 0xF000#32 ||| put p 0
  | .tBlSuffix p => 0xF800#32 ||| put p 0
  | .narrowUndefB1 p => 0xB100#32 ||| put p 0
  | .narrowUndefB2 p => 0xB200#32 ||| put p 0
  | .narrowUndefB3 p => 0xB300#32 ||| put p 0
  | .narrowUndefB6 p => 0xB600#32 ||| put p 0
  | .narrowUndefB7 p => 0xB700#32 ||| put p 0
  | .narrowUndefB8 p => 0xB800#32 ||| put p 0
  | .narrowUndefB9 p => 0xB900#32 ||| put p 0
  | .narrowUndefBa p => 0xBA00#32 ||| put p 0
  | .narrowUndefBb p => 0xBB00#32 ||| put p 0
  | .narrowUndefBe p => 0xBE00#32 ||| put p 0
  | .narrowUndefBf p => 0xBF00#32 ||| put p 0
  | .narrowUndefDe p => 0xDE00#32 ||| put p 0
  | .narrowUndefE8Ef p => 0xE800#32 ||| put p 0

/-! ## Bytes -/

/-- Bytes as a little-endian number, the first byte lowest (20_memory.md R87). -/
def leWord : List Byte → Word
  | [] => 0
  | b :: bs => b.setWidth 32 ||| (leWord bs <<< 8)

/-- The low `n` bytes of a word, little-endian (R87). -/
def leBytes (w : Word) : Nat → List Byte
  | 0 => []
  | n + 1 => w.setWidth 8 :: leBytes (w >>> 8) n

/-- What `decode` answers where there is no whole instruction: fewer bytes than its length (R115). No byte pattern is
rejected: the Wide and the Narrow classes are partitions (R104, R114). -/
inductive DecodeError where
  | truncated
  deriving DecidableEq, Repr

/-- The instruction of a fetched word: `instruction_set_mode` alone decides how it is read (R101, R115). -/
def decodeFetched (isa : InstrSet) (w : Word) : Instr :=
  match isa with
  | .wide => decodeWide w
  | .narrow => decodeNarrow (w.setWidth 16)

/-- `width` of 40_dispatch.md R132, in bytes (R115). -/
def InstrSet.bytes : InstrSet → Nat
  | .wide => 4
  | .narrow => 2

/-- The instruction at the start of a list of bytes, and the bytes after it. -/
def decode (isa : InstrSet) (bs : List Byte) : Except DecodeError (Instr × List Byte) :=
  match isa, bs with
  | .wide, b0 :: b1 :: b2 :: b3 :: rest => .ok (decodeFetched .wide (leWord [b0, b1, b2, b3]), rest)
  | .narrow, b0 :: b1 :: rest => .ok (decodeFetched .narrow (leWord [b0, b1]), rest)
  | .wide, [] | .wide, [_] | .wide, [_, _] | .wide, [_, _, _] => .error .truncated
  | .narrow, [] | .narrow, [_] => .error .truncated

/-- The instruction set of a row of the opcode table that has `nbits` bits: the 16-bit rows are Narrow, the others Wide. -/
def tableIsa (nbits : Nat) : InstrSet := if nbits ≤ 16 then .narrow else .wide

/-- The instruction the decoder reads from the table word `w` of a row of `nbits` bits, laid out in memory order. -/
def decodeTableWord (nbits w : Nat) : Option Instr :=
  match decode (tableIsa nbits) (leBytes (BitVec.ofNat 32 w) (tableIsa nbits).bytes) with
  | .ok (i, _) => some i
  | .error _ => none

end Sys2Proof
end

