-- ==== Sys2Proof/Machine/State.lean ====
section
/-! DEFINITION. The state (10_state.md R42), the reasons a step can stop (60_exceptions.md R180, R182), and the state after
reset (R44, 70_reset_and_hazards.md R200-R202). -/
namespace Sys2Proof.Machine

/-- The four condition flags (10_state.md R27, R28): a closed enumeration, so no other flag can be named. -/
inductive Flag where
  | n
  | z
  | c
  | v
  deriving DecidableEq, Repr

/-- One value per flag. -/
structure FlagSet (β : Type) where
  n : β
  z : β
  c : β
  v : β
  deriving DecidableEq, Repr

/-- What an operating mode banks (R21): r13, r14 and the flags. -/
structure Bank (α β : Type) where
  r13 : α
  r14 : α
  flags : FlagSet β
  deriving DecidableEq, Repr

/-- One value per operating mode (R32). -/
structure PerMode (γ : Type) where
  user : γ
  fastInterrupt : γ
  interrupt : γ
  supervisor : γ
  abort : γ
  undefined : γ
  deriving DecidableEq, Repr

/-- The physical storage of R21: 26 register slots holding an `α` each and 24 flag slots holding a `β` each. It is used
twice: for the values (`Word`, `Bool`) and for the written marks of R45 (`Bool`, `Bool`). -/
structure RegFile (α β : Type) where
  gpr : Vector α 13
  gpr15 : α
  bank : PerMode (Bank α β)
  deriving DecidableEq, Repr

/-- The names of the 26 physical registers (R21). -/
inductive RegSlot where
  | gpr (i : Fin 13)
  | gpr15
  | r13 (m : Mode)
  | r14 (m : Mode)
  deriving DecidableEq, Repr

/-- The names of the 50 slots that carry a written mark (R45). -/
inductive Slot where
  | reg (r : RegSlot)
  | flag (m : Mode) (f : Flag)
  deriving DecidableEq, Repr

/-- The control fields of one background (R37). -/
structure BgControl where
  priority : BitVec 2
  charBase : BitVec 2
  mosaic : Bool
  colorDepth : Bool
  screenBase : BitVec 5
  size : BitVec 2
  deriving DecidableEq, Repr

/-- The `DisplayStatus` control fields (R37) and wait-state cache (R39). The live inputs of R38 are fields of `State`. -/
structure DisplayStatus where
  bgMode : BitVec 3
  objMapping : Bool
  bgEnable : Vector Bool 4
  objEnable : Bool
  bg : Vector BgControl 4
  wsN : Nat
  wsS : Nat
  deriving DecidableEq, Repr

/-- One entry of the anomaly log (R41): the bus address, the ROM index and the byte of a write to cartridge ROM. -/
structure Anomaly where
  bus : Word
  index : Nat
  byte : Byte
  deriving DecidableEq, Repr

/-- All backing storage (R40) as one list of (resolved address, byte). `Memory.wf` is its canonical form; an unlisted
byte is 0 (R44, R202; log entry 5). -/
abbrev Memory := List Host.Cell

/-- The machine's state (R42), with two fields of the model's own: `draws` and `params`. -/
structure State where
  /-- The physical registers and flags (R21). -/
  regs : RegFile Word Bool
  /-- The written marks (R45). -/
  written : RegFile Bool Bool
  /-- `instruction_set_mode` (R31). -/
  isa : InstrSet
  /-- `operating_mode` (R32). -/
  mode : Mode
  /-- The eight backing arrays (R40), keyed by resolved address (20_memory.md R60). -/
  mem : Memory
  /-- `DisplayStatus` control fields and wait-state cache (R37, R39). -/
  ds : DisplayStatus
  /-- Host input (R38). -/
  vblank : Bool
  /-- Host input (R38). -/
  hblank : Bool
  /-- Host input (R38). -/
  scanline : BitVec 16
  /-- The anomaly log (R41), oldest entry first. -/
  anomalies : List Anomaly
  /-- The model's own: how many free values have been drawn (log entry 6). -/
  draws : Nat
  /-- The model's own: the OPEN parameters, constant during a session (log entry 1). -/
  params : Params
  deriving DecidableEq, Repr

/-- Why a step stops with a fault. Either one keeps the state as it was before the step (60_exceptions.md R181). Safe: the
spec gives the step no successor state (R180). -/
inductive Fault where
  /-- E1: raised by instruction fetch when the byte at `a` resolves to no storage (40_dispatch.md R132). Safe. -/
  | fetchFault (a : Word)
  /-- E9: raised by the condition evaluator or by BX, MUL or MLA reading a slot whose written mark is clear: the spec's own
  step outcome (R45, 40_dispatch.md R138, R140; 60_exceptions.md R182), which only a session under P_RESET_REGS = UNWRITTEN
  can meet. From `State.reset`, where every register and flag is written, it never arises. Safe. -/
  | unwrittenRead (slot : Slot)
  deriving DecidableEq, Repr

/-- Why a step is refused. -/
inductive Refusal where
  /-- Raised by an arm of `exec` whose instruction has no meaning in this model yet. No arm raises it. Safe. -/
  | notModelled (mnemonic : String)
  /-- E3: the outcome `Unimplemented(cls, w, pc0)` of a classified format with no handler, condition passed, and of every
  Narrow word (43_unimplemented.md R170, 40_dispatch.md R137). The state is kept and there is no successor (R180). A Narrow
  word is reported zero-extended. Safe. -/
  | unimplemented (cls : FormatClass) (w : Word) (pc0 : Word)
  deriving DecidableEq, Repr

/-- How a host access ends when it does not end in a value (60_exceptions.md R180, E2). The state is kept. -/
inductive PortFault where
  /-- The first byte address of the access that resolves to no storage (20_memory.md R59). -/
  | outOfRange (a : Word)
  deriving DecidableEq, Repr

/-- What a step answers. -/
abbrev Result := Host.Outcome State Fault Refusal

/-- Every register slot holding `a` and every flag slot holding `b`. -/
def RegFile.fill {α β : Type} (a : α) (b : β) : RegFile α β :=
  let k : Bank α β := { r13 := a, r14 := a, flags := { n := b, z := b, c := b, v := b } }
  { gpr := Vector.replicate 13 a
    gpr15 := a
    bank := { user := k, fastInterrupt := k, interrupt := k, supervisor := k, abort := k, undefined := k } }

/-- A background's control fields at reset (R44). -/
def BgControl.reset : BgControl where
  priority := 0
  charBase := 0
  mosaic := false
  colorDepth := false
  screenBase := 0
  size := 0

/-- `DisplayStatus` at reset (R44): every control field 0, and the wait-state table's values for a WAITCNT field of 0. -/
def DisplayStatus.reset : DisplayStatus where
  bgMode := 0
  objMapping := false
  bgEnable := Vector.replicate 4 false
  objEnable := false
  bg := Vector.replicate 4 BgControl.reset
  wsN := 4
  wsS := 2

/-- The machine right after reset (R44, R200-R202), with the defaults of R6 and P_RESET_REGS = ZERO: every register and
flag is written and 0, every mark is set (DESIGN CHOICE, unsafe: log entry 2). Both images are all zero bytes (log
entry 4). `Sys2Proof.Machine.launch` is the session start for every other choice. -/
def State.reset : State where
  regs := RegFile.fill 0 false
  written := RegFile.fill true true
  isa := .wide
  mode := .supervisor
  mem := []
  ds := DisplayStatus.reset
  vblank := false
  hblank := false
  scanline := 0
  anomalies := []
  draws := 0
  params := Params.default

end Sys2Proof.Machine
end

