-- ==== Sys2Proof/Machine/Ops.lean ====
section
/-! DEFINITION. The named operations over registers, flags, modes and memory (10_state.md R22-R35; 20_memory.md R60). -/
namespace Sys2Proof.Machine

/-! ## One value per mode, per flag -/

def PerMode.get {γ : Type} (p : PerMode γ) : Mode → γ
  | .user => p.user
  | .fastInterrupt => p.fastInterrupt
  | .interrupt => p.interrupt
  | .supervisor => p.supervisor
  | .abort => p.abort
  | .undefined => p.undefined

def PerMode.set {γ : Type} (p : PerMode γ) (m : Mode) (x : γ) : PerMode γ :=
  match m with
  | .user => { p with user := x }
  | .fastInterrupt => { p with fastInterrupt := x }
  | .interrupt => { p with interrupt := x }
  | .supervisor => { p with supervisor := x }
  | .abort => { p with abort := x }
  | .undefined => { p with undefined := x }

def FlagSet.get {β : Type} (s : FlagSet β) : Flag → β
  | .n => s.n
  | .z => s.z
  | .c => s.c
  | .v => s.v

def FlagSet.set {β : Type} (s : FlagSet β) (f : Flag) (x : β) : FlagSet β :=
  match f with
  | .n => { s with n := x }
  | .z => { s with z := x }
  | .c => { s with c := x }
  | .v => { s with v := x }

/-! ## Physical slots (R21) -/

def RegFile.getReg {α β : Type} (r : RegFile α β) : RegSlot → α
  | .gpr i => r.gpr[i]
  | .gpr15 => r.gpr15
  | .r13 m => (r.bank.get m).r13
  | .r14 m => (r.bank.get m).r14

def RegFile.setReg {α β : Type} (r : RegFile α β) (slot : RegSlot) (x : α) : RegFile α β :=
  match slot with
  | .gpr i => { r with gpr := r.gpr.set i x }
  | .gpr15 => { r with gpr15 := x }
  | .r13 m => { r with bank := r.bank.set m { r.bank.get m with r13 := x } }
  | .r14 m => { r with bank := r.bank.set m { r.bank.get m with r14 := x } }

def RegFile.getFlag {α β : Type} (r : RegFile α β) (m : Mode) (f : Flag) : β :=
  (r.bank.get m).flags.get f

def RegFile.setFlag {α β : Type} (r : RegFile α β) (m : Mode) (f : Flag) (x : β) : RegFile α β :=
  { r with bank := r.bank.set m { r.bank.get m with flags := (r.bank.get m).flags.set f x } }

/-- The written mark of a slot (R45). -/
def isWritten (slot : Slot) (s : State) : Bool :=
  match slot with
  | .reg r => s.written.getReg r
  | .flag m f => s.written.getFlag m f

/-! ## Ports of the register file -/

/-- The physical slot behind logical register `i` in mode `m`: the case split of R22. -/
def regSlot (m : Mode) (i : Reg) : RegSlot :=
  if h : i.toNat < 13 then .gpr ⟨i.toNat, h⟩
  else if i = 13 then .r13 m
  else if i = 14 then .r14 m
  else .gpr15

/-- `read(i)` (R22). It has no side effect; register 15 reads as stored, with no pipeline offset. -/
def readReg (i : Reg) (s : State) : Word := s.regs.getReg (regSlot s.mode i)

/-- `write(i, v)` (R23); any write sets the slot's mark (R45). -/
def writeReg (i : Reg) (v : Word) (s : State) : State :=
  { s with regs := s.regs.setReg (regSlot s.mode i) v
           written := s.written.setReg (regSlot s.mode i) true }

/-- `read_checked(i)` (R45): what an instruction's read of `x[i]` answers. On a clear mark it raises `UnwrittenRead` (R45,
40_dispatch.md R138, R140; never from `State.reset`, whose marks are all set). -/
def readChecked (i : Reg) (s : State) : Except Fault Word :=
  if s.written.getReg (regSlot s.mode i) then .ok (readReg i s)
  else .error (.unwrittenRead (.reg (regSlot s.mode i)))

/-- The counter, `x[15]`. -/
def pcOf (s : State) : Word := s.regs.gpr15

/-- `x[15] <- v` (R8, R23, R45). -/
def setPc (v : Word) (s : State) : State :=
  { s with regs := { s.regs with gpr15 := v }, written := { s.written with gpr15 := true } }

/-! ## Flags of the active bank (R27, R28) -/

/-- `get_flag(F)` (R28). -/
def getFlag (f : Flag) (s : State) : Bool := s.regs.getFlag s.mode f

/-- `set_flag(F, b)` (R28); it sets the flag's mark (R45). -/
def setFlag (f : Flag) (b : Bool) (s : State) : State :=
  { s with regs := s.regs.setFlag s.mode f b, written := s.written.setFlag s.mode f true }

/-- `bank[operating_mode].flags` (R27). -/
def activeFlags (s : State) : FlagSet Bool := (s.regs.bank.get s.mode).flags

/-! ## Processor state -/

/-- `switch_operating_mode(m)` (R33). It is also all that the nearest things to a trap do: BX naming register 15 (E4) and a
non-existent mode encoding (E5) change the mode to Undefined and nothing else (60_exceptions.md R187). -/
def switchOperatingMode (m : Mode) (s : State) : State := { s with mode := m }

/-- The mode a 5-bit encoding selects; every encoding outside the six selects Undefined (R34). -/
def modeOfBits (e : BitVec 5) : Mode :=
  if e = 0b10000 then .user
  else if e = 0b10001 then .fastInterrupt
  else if e = 0b10010 then .interrupt
  else if e = 0b10011 then .supervisor
  else if e = 0b10111 then .abort
  else .undefined

/-- `switch_instruction_set_mode(s)` (R35). -/
def switchInstrSet (i : InstrSet) (s : State) : State := { s with isa := i }

/-! ## Memory as a list in one canonical form -/

/-- The byte at a resolved address; an unlisted byte is 0 (R44, R202; log entry 5). -/
def Memory.read (m : Memory) (a : Nat) : Byte :=
  match m with
  | [] => 0#8
  | (k, b) :: rest => if k = a then b else Memory.read rest a

/-- Store a byte, keeping the canonical form: a stored 0 takes the entry out. -/
def Memory.write (m : Memory) (a : Nat) (b : Byte) : Memory :=
  match m with
  | [] => if b = 0#8 then [] else [(a, b)]
  | (k, c) :: rest =>
    if a < k then (if b = 0#8 then (k, c) :: rest else (a, b) :: (k, c) :: rest)
    else if a = k then (if b = 0#8 then rest else (a, b) :: rest)
    else (k, c) :: Memory.write rest a b

/-- Every address of a list is above `lo`, they rise strictly, and no byte is 0. -/
def Memory.wfAbove (m : Memory) (lo : Nat) : Bool :=
  match m with
  | [] => true
  | (k, b) :: rest => decide (lo < k) && b != 0#8 && Memory.wfAbove rest k

/-- The canonical form: addresses strictly rising, no entry equal to what an unlisted address reads as. -/
def Memory.wf (m : Memory) : Bool :=
  match m with
  | [] => true
  | (k, b) :: rest => b != 0#8 && Memory.wfAbove rest k

end Sys2Proof.Machine
end

