-- ==== Sys2Proof/Machine/Flags.lean ====
section
/-! DEFINITION. The condition evaluator (40_dispatch.md R130, R131; 10_state.md R45) and the multiply flag rule
(42_multiply.md R163). -/
namespace Sys2Proof.Machine

/-- The predicate of each condition (R130). -/
def conditionMet (c : Cond) (f : FlagSet Bool) : Bool :=
  match c with
  | .eq => f.z
  | .ne => !f.z
  | .cs => f.c
  | .cc => !f.c
  | .mi => f.n
  | .pl => !f.n
  | .vs => f.v
  | .vc => !f.v
  | .hi => f.c && !f.z
  | .ls => !f.c || f.z
  | .ge => f.n == f.v
  | .lt => f.n != f.v
  | .gt => !f.z && (f.n == f.v)
  | .le => f.z || (f.n != f.v)
  | .al => true
  | .nv => false

/-- The flags a condition's predicate names, in the order N, Z, C, V in which an unwritten one is reported (R45). -/
def flagsRead : Cond → List Flag
  | .eq | .ne => [.z]
  | .cs | .cc => [.c]
  | .mi | .pl => [.n]
  | .vs | .vc => [.v]
  | .hi | .ls => [.z, .c]
  | .ge | .lt => [.n, .v]
  | .gt | .le => [.n, .z, .v]
  | .al | .nv => []

/-- The first flag of a list whose mark is clear in the active bank (R45). -/
def firstUnwritten (fs : List Flag) (s : State) : Option Flag :=
  match fs with
  | [] => none
  | f :: rest => if s.written.getFlag s.mode f then firstUnwritten rest s else some f

/-- The condition stage of a step (40_dispatch.md R138): the flags are read through `flag_checked`, which raises
`UnwrittenRead` on a clear mark (R45, R140; never from `State.reset`, whose marks are all set). -/
def evalCond (c : Cond) (s : State) : Except Fault Bool :=
  match firstUnwritten (flagsRead c) s with
  | some f => .error (.unwrittenRead (.flag s.mode f))
  | none => .ok (conditionMet c (activeFlags s))

/-- C and V after a flag-setting multiply (R163): two free values under DRAW (log entry 6), unchanged under PRESERVE. -/
def multiplyCV (s : State) : State :=
  match s.params.mulCV with
  | .draw =>
    { setFlag .v (Config.freeFlag (s.draws + 1)) (setFlag .c (Config.freeFlag s.draws) s) with draws := s.draws + 2 }
  | .preserve => s

/-- The multiply flag rule (R163), on the active bank. -/
def multiplyFlags (res : Word) (s : State) : State :=
  multiplyCV (setFlag .z (decide (res = 0)) (setFlag .n (res.getLsbD 31) s))

/-- The flags as one word on the host port (R29): N 31, Z 30, C 29, V 28, the rest zero. -/
def flagWord (f : FlagSet Bool) : Word :=
  putBit f.n 31 ||| putBit f.z 30 ||| putBit f.c 29 ||| putBit f.v 28

end Sys2Proof.Machine
end

