-- ==== Sys2Proof/Machine/Operands.lean ====
section
/-! DEFINITION. Operand forms (30_encoding.md R108-R111, R116). -/
namespace Sys2Proof.Machine

/-- `branch_offset` (R108): the 24-bit word offset, sign-extended and scaled by 4. -/
def branchOffset (offset24 : BitVec 24) : Word := offset24.signExtend 32 <<< 2

/-- The offset field an assembler puts in a B or BL at `address` for a label (R116): `(label - address) / 4`. What it is for a
label that is not a multiple of 4 away, or out of range, the spec leaves open: the quotient is rounded down and cut to 24
bits (DESIGN CHOICE, safe: log entry 27). -/
def branchField (address label : Word) : BitVec 24 := ((label - address) >>> 2).setWidth 24

/-! ## Operand assembly of the classes with no handler (R111): decoder outputs that no rule in scope consumes -/

/-- The type of a shift, `w[6:5]` (R111). The spec does not name the four values. -/
abbrev ShiftType := BitVec 2

/-- A shift amount: an immediate or a register (R111). -/
inductive ShiftAmount where
  | imm (amount : BitVec 5)
  | reg (rs : Reg)
  deriving DecidableEq, Repr

/-- The second operand of a data-processing word (R111). -/
inductive DpOperand where
  | imm (value : Word)
  | shifted (rm : Reg) (ty : ShiftType) (amount : ShiftAmount)
  deriving DecidableEq, Repr

/-- `ROR(zext_32(w[7:0]), 2 * w[11:8])` (R111). -/
def dpImmediate (operand2 : BitVec 12) : Word :=
  ((operand2.extractLsb' 0 8).setWidth 32).rotateRight (2 * (operand2.extractLsb' 8 4).toNat)

/-- A shifted register in `w[11:0]`: `w[4]` selects the register amount (R111). -/
def shiftedRegister (o : BitVec 12) : DpOperand :=
  .shifted (o.extractLsb' 0 4) (o.extractLsb' 5 2)
    (if o.getLsbD 4 then .reg (o.extractLsb' 8 4) else .imm (o.extractLsb' 7 5))

/-- The operand of a data-processing word (R111). -/
def dpOperand (f : DpFields) : DpOperand :=
  if f.i then .imm (dpImmediate f.operand2) else shiftedRegister f.operand2

/-- The offset of a single data transfer: an immediate, or a shifted register when `I = 1` (R111). -/
def transferOperand (f : TransferFields) : DpOperand :=
  if f.i then shiftedRegister f.offset12 else .imm (f.offset12.setWidth 32)

/-- The offset of a halfword transfer: `Rm` or `offset8` (R111). -/
inductive HalfOperand where
  | reg (rm : Reg)
  | imm (offset8 : BitVec 8)
  deriving DecidableEq, Repr

def halfRegOperand (f : HalfRegFields) : HalfOperand := .reg f.rm

def halfImmOperand (f : HalfImmFields) : HalfOperand := .imm f.offset8

/-- The registers of a 16-bit register list (R111). The spec says only that the list has 16 bits. That bit `i` names register
`i`, lowest first, is the ARM convention (PRESUMED, safe: log entry 26). No rule consumes it. -/
def registerList (rlist : BitVec 16) : List (Fin 16) := (List.finRange 16).filter fun i => rlist.getLsbD i.val

/-- The byte offset of a coprocessor data transfer: `offset8 << 2` (R111). -/
def coprocOffset (f : CoprocTransferFields) : Word := f.offset8.setWidth 32 <<< 2

end Sys2Proof.Machine
end

