-- ==== Sys2Proof/Machine/Sequence.lean ====
section
/-! DEFINITION. What the handlers share (40_dispatch.md R134-R138, 43_unimplemented.md R170): the counter's advance, the
condition stage, and the Unimplemented stub. -/
namespace Sys2Proof.Machine

/-- `x[15] <- pc0 + 4`, modulo 2^32 (R134): the end of a Wide step that does not redirect. `pc0` is the value fetched from. -/
def advance (pc0 : Word) (s : State) : State := setPc (pc0 + 4) s

/-- The condition stage (R133, R135, R138): an unwritten flag stops the step, a failed condition only advances the counter,
and a passed one goes on to the handler. -/
def whenCondition (c : Cond) (s : State) (handler : Result) : Result :=
  match evalCond c s with
  | .error e => .fault e
  | .ok false => .next (advance (pcOf s) s)
  | .ok true => handler

/-- The Unimplemented stub (R170): nothing is written; the outcome reports the class, the word and the counter. -/
def unimplemented (cls : FormatClass) (w : Word) (s : State) : Result :=
  .refused (.unimplemented cls w (pcOf s))

/-- A Wide instruction of a class with no handler (R136, R170, R173). -/
def wideUnimplemented (cls : WideClass) (c : Cond) (w : Word) (s : State) : Result :=
  whenCondition c s (unimplemented (.wide cls) w s)

/-- A Narrow instruction: there is no condition stage and no handler (R137, R177). -/
def narrowUnimplemented (f : NarrowFormat) (w : Word) (s : State) : Result :=
  unimplemented (.narrow f) w s

end Sys2Proof.Machine
end

