-- ==== Sys2Proof/Machine/Branch.lean ====
section
/-! DEFINITION. Control transfer (41_branch.md): B, BL, BX and BX naming register 15. -/
namespace Sys2Proof.Machine

/-- The target of B and BL: `(pc0 + branch_offset) mod 2^32`, with no pipeline offset and no check (R150, R154). -/
def branchTarget (offset24 : BitVec 24) (s : State) : Word := pcOf s + branchOffset offset24

/-- BX with a valid register (R152): the full value goes to the counter, its bit 0 selects the instruction set. -/
def exchangeTo (v : Word) (s : State) : State :=
  switchInstrSet (if v.getLsbD 0 then .narrow else .wide) (setPc v s)

/-- BX naming register 15 (R153, E4): the mode becomes Undefined and the counter is held. -/
def invalidExchange (s : State) : State := switchOperatingMode .undefined s

/-- B (R150). -/
def execB (c : Cond) (offset24 : BitVec 24) (s : State) : Result :=
  whenCondition c s (.next (setPc (branchTarget offset24 s) s))

/-- BL (R151): the return point is `pc0 + 4`, in the active bank's r14. -/
def execBl (c : Cond) (offset24 : BitVec 24) (s : State) : Result :=
  whenCondition c s (.next (setPc (branchTarget offset24 s) (writeReg 14 (pcOf s + 4) s)))

/-- BX (R152). A term that names register 15 is not well-formed (R110); it acts as R153 says (log entry 14). -/
def execBx (c : Cond) (rm : Reg) (s : State) : Result :=
  whenCondition c s
    (if rm = 15 then .next (invalidExchange s)
     else
       match readChecked rm s with
       | .error e => .fault e
       | .ok v => .next (exchangeTo v s))

/-- BX_R15 (R153). -/
def execBxR15 (c : Cond) (s : State) : Result :=
  whenCondition c s (.next (invalidExchange s))

end Sys2Proof.Machine
end

