-- ==== Sys2Proof/Machine/Coprocessor.lean ====
section
/-! DEFINITION. Coprocessor classes (43_unimplemented.md R170, R171, R175): classified, with no handler. There is no coprocessor
(30_encoding.md R112). -/
namespace Sys2Proof.Machine

/-- STC. -/
def execStc (c : Cond) (f : CoprocTransferFields) (s : State) : Result :=
  wideUnimplemented .coprocDataTransfer c (encode (.stc c f)) s

/-- LDC. -/
def execLdc (c : Cond) (f : CoprocTransferFields) (s : State) : Result :=
  wideUnimplemented .coprocDataTransfer c (encode (.ldc c f)) s

/-- CDP. -/
def execCdp (c : Cond) (f : CoprocOpFields) (s : State) : Result :=
  wideUnimplemented .coprocDataOperation c (encode (.cdp c f)) s

/-- MCR. -/
def execMcr (c : Cond) (f : CoprocRegFields) (s : State) : Result :=
  wideUnimplemented .coprocRegisterTransfer c (encode (.mcr c f)) s

/-- MRC. -/
def execMrc (c : Cond) (f : CoprocRegFields) (s : State) : Result :=
  wideUnimplemented .coprocRegisterTransfer c (encode (.mrc c f)) s

end Sys2Proof.Machine
end

