-- ==== Sys2Proof/Machine/DataProcessing.lean ====
section
/-! DEFINITION. Data processing (43_unimplemented.md R170, R171): classified, with no handler. MRS, MSR_reg and MSR_imm are other
names of TST, TEQ, CMP and CMN words (30_encoding.md R119). -/
namespace Sys2Proof.Machine

/-- AND. -/
def execAnd (c : Cond) (f : DpFields) (s : State) : Result :=
  wideUnimplemented .dataProcessing c (encode (.and c f)) s

/-- EOR. -/
def execEor (c : Cond) (f : DpFields) (s : State) : Result :=
  wideUnimplemented .dataProcessing c (encode (.eor c f)) s

/-- SUB. -/
def execSub (c : Cond) (f : DpFields) (s : State) : Result :=
  wideUnimplemented .dataProcessing c (encode (.sub c f)) s

/-- RSB. -/
def execRsb (c : Cond) (f : DpFields) (s : State) : Result :=
  wideUnimplemented .dataProcessing c (encode (.rsb c f)) s

/-- ADD. -/
def execAdd (c : Cond) (f : DpFields) (s : State) : Result :=
  wideUnimplemented .dataProcessing c (encode (.add c f)) s

/-- ADC. -/
def execAdc (c : Cond) (f : DpFields) (s : State) : Result :=
  wideUnimplemented .dataProcessing c (encode (.adc c f)) s

/-- SBC. -/
def execSbc (c : Cond) (f : DpFields) (s : State) : Result :=
  wideUnimplemented .dataProcessing c (encode (.sbc c f)) s

/-- RSC. -/
def execRsc (c : Cond) (f : DpFields) (s : State) : Result :=
  wideUnimplemented .dataProcessing c (encode (.rsc c f)) s

/-- TST. -/
def execTst (c : Cond) (f : DpFields) (s : State) : Result :=
  wideUnimplemented .dataProcessing c (encode (.tst c f)) s

/-- TEQ. -/
def execTeq (c : Cond) (f : DpFields) (s : State) : Result :=
  wideUnimplemented .dataProcessing c (encode (.teq c f)) s

/-- CMP. -/
def execCmp (c : Cond) (f : DpFields) (s : State) : Result :=
  wideUnimplemented .dataProcessing c (encode (.cmp c f)) s

/-- CMN. -/
def execCmn (c : Cond) (f : DpFields) (s : State) : Result :=
  wideUnimplemented .dataProcessing c (encode (.cmn c f)) s

/-- ORR. -/
def execOrr (c : Cond) (f : DpFields) (s : State) : Result :=
  wideUnimplemented .dataProcessing c (encode (.orr c f)) s

/-- MOV. -/
def execMov (c : Cond) (f : DpFields) (s : State) : Result :=
  wideUnimplemented .dataProcessing c (encode (.mov c f)) s

/-- BIC. -/
def execBic (c : Cond) (f : DpFields) (s : State) : Result :=
  wideUnimplemented .dataProcessing c (encode (.bic c f)) s

/-- MVN. -/
def execMvn (c : Cond) (f : DpFields) (s : State) : Result :=
  wideUnimplemented .dataProcessing c (encode (.mvn c f)) s

/-- MRS. -/
def execMrs (c : Cond) (ps : Bool) (rd : Reg) (s : State) : Result :=
  wideUnimplemented .dataProcessing c (encode (.mrs c ps rd)) s

/-- MSR_reg. -/
def execMsrReg (c : Cond) (pd : Bool) (fieldmask : BitVec 4) (rm : Reg) (s : State) : Result :=
  wideUnimplemented .dataProcessing c (encode (.msrReg c pd fieldmask rm)) s

/-- MSR_imm. -/
def execMsrImm (c : Cond) (pd : Bool) (fieldmask : BitVec 4) (imm : BitVec 12) (s : State) : Result :=
  wideUnimplemented .dataProcessing c (encode (.msrImm c pd fieldmask imm)) s

end Sys2Proof.Machine
end

