-- ==== Sys2Proof/Machine/Halfword.lean ====
section
/-! DEFINITION. Halfword transfers (43_unimplemented.md R170, R171, R176): classified, with no handler. No memory is accessed. -/
namespace Sys2Proof.Machine

/-- STRH_reg. -/
def execStrhReg (c : Cond) (f : HalfRegFields) (s : State) : Result :=
  wideUnimplemented .halfwordRegOffset c (encode (.strhReg c f)) s

/-- STRH_imm. -/
def execStrhImm (c : Cond) (f : HalfImmFields) (s : State) : Result :=
  wideUnimplemented .halfwordImmOffset c (encode (.strhImm c f)) s

/-- LDRH_reg. -/
def execLdrhReg (c : Cond) (f : HalfRegFields) (s : State) : Result :=
  wideUnimplemented .halfwordRegOffset c (encode (.ldrhReg c f)) s

/-- LDRH_imm. -/
def execLdrhImm (c : Cond) (f : HalfImmFields) (s : State) : Result :=
  wideUnimplemented .halfwordImmOffset c (encode (.ldrhImm c f)) s

/-- LDRSB_reg. -/
def execLdrsbReg (c : Cond) (f : HalfRegFields) (s : State) : Result :=
  wideUnimplemented .halfwordRegOffset c (encode (.ldrsbReg c f)) s

/-- LDRSB_imm. -/
def execLdrsbImm (c : Cond) (f : HalfImmFields) (s : State) : Result :=
  wideUnimplemented .halfwordImmOffset c (encode (.ldrsbImm c f)) s

/-- LDRSH_reg. -/
def execLdrshReg (c : Cond) (f : HalfRegFields) (s : State) : Result :=
  wideUnimplemented .halfwordRegOffset c (encode (.ldrshReg c f)) s

/-- LDRSH_imm. -/
def execLdrshImm (c : Cond) (f : HalfImmFields) (s : State) : Result :=
  wideUnimplemented .halfwordImmOffset c (encode (.ldrshImm c f)) s

/-- HDT_L0_SH10_reg. -/
def execHdtL0Sh10Reg (c : Cond) (f : HalfRegFields) (s : State) : Result :=
  wideUnimplemented .halfwordRegOffset c (encode (.hdtL0Sh10Reg c f)) s

/-- HDT_L0_SH10_imm. -/
def execHdtL0Sh10Imm (c : Cond) (f : HalfImmFields) (s : State) : Result :=
  wideUnimplemented .halfwordImmOffset c (encode (.hdtL0Sh10Imm c f)) s

/-- HDT_L0_SH11_reg. -/
def execHdtL0Sh11Reg (c : Cond) (f : HalfRegFields) (s : State) : Result :=
  wideUnimplemented .halfwordRegOffset c (encode (.hdtL0Sh11Reg c f)) s

/-- HDT_L0_SH11_imm. -/
def execHdtL0Sh11Imm (c : Cond) (f : HalfImmFields) (s : State) : Result :=
  wideUnimplemented .halfwordImmOffset c (encode (.hdtL0Sh11Imm c f)) s

end Sys2Proof.Machine
end

