-- ==== Sys2Proof/Machine/LongAndSwap.lean ====
section
/-! DEFINITION. Long multiplies and swaps (43_unimplemented.md R170, R171, R174): classified, with no handler. No atomic access is made. -/
namespace Sys2Proof.Machine

/-- UMULL. -/
def execUmull (c : Cond) (f : MulLongFields) (s : State) : Result :=
  wideUnimplemented .multiplyLong c (encode (.umull c f)) s

/-- UMLAL. -/
def execUmlal (c : Cond) (f : MulLongFields) (s : State) : Result :=
  wideUnimplemented .multiplyLong c (encode (.umlal c f)) s

/-- SMULL. -/
def execSmull (c : Cond) (f : MulLongFields) (s : State) : Result :=
  wideUnimplemented .multiplyLong c (encode (.smull c f)) s

/-- SMLAL. -/
def execSmlal (c : Cond) (f : MulLongFields) (s : State) : Result :=
  wideUnimplemented .multiplyLong c (encode (.smlal c f)) s

/-- SWP. -/
def execSwp (c : Cond) (f : SwapFields) (s : State) : Result :=
  wideUnimplemented .singleDataSwap c (encode (.swp c f)) s

/-- SWPB. -/
def execSwpb (c : Cond) (f : SwapFields) (s : State) : Result :=
  wideUnimplemented .singleDataSwap c (encode (.swpb c f)) s

end Sys2Proof.Machine
end

