-- ==== Sys2Proof/Machine/Multiply.lean ====
section
/-! DEFINITION. Multiply (42_multiply.md): MUL and MLA, with the set-flags forms MULS and MLAS. -/
namespace Sys2Proof.Machine

/-- What a multiply writes (R160-R164): `x[Rd]`, then the flags when `S = 1`, then the counter unless `Rd = 15`, which is a
redirect. -/
def writeProduct (f : MulFields) (res : Word) (s : State) : State :=
  let s1 := writeReg f.rd res s
  let s2 := if f.s then multiplyFlags res s1 else s1
  if f.rd = 15 then s2 else advance (pcOf s) s2

/-- MUL (R160): the low 32 bits of the product. `Rn` is ignored. -/
def execMul (c : Cond) (f : MulFields) (s : State) : Result :=
  whenCondition c s
    (match readChecked f.rm s with
     | .error e => .fault e
     | .ok a =>
       match readChecked f.rs s with
       | .error e => .fault e
       | .ok b => .next (writeProduct f (a * b) s))

/-- MLA (R161): the low 32 bits of the product plus `x[Rn]`. -/
def execMla (c : Cond) (f : MulFields) (s : State) : Result :=
  whenCondition c s
    (match readChecked f.rm s with
     | .error e => .fault e
     | .ok a =>
       match readChecked f.rs s with
       | .error e => .fault e
       | .ok b =>
         match readChecked f.rn s with
         | .error e => .fault e
         | .ok d => .next (writeProduct f (a * b + d) s))

end Sys2Proof.Machine
end

