-- ==== Sys2Proof/Machine/Narrow.lean ====
section
/-! DEFINITION. Narrow instructions of the formats T1 to T19 (40_dispatch.md R137, 43_unimplemented.md R177): classified, with no handler;
every one ends the step with Unimplemented, T5 BX included. -/
namespace Sys2Proof.Machine

/-- T_LSL (T1). -/
def execTLsl (p : BitVec 11) (s : State) : Result :=
  narrowUnimplemented .t1 (encode (.tLsl p)) s

/-- T_LSR (T1). -/
def execTLsr (p : BitVec 11) (s : State) : Result :=
  narrowUnimplemented .t1 (encode (.tLsr p)) s

/-- T_ASR (T1). -/
def execTAsr (p : BitVec 11) (s : State) : Result :=
  narrowUnimplemented .t1 (encode (.tAsr p)) s

/-- T_ADD_reg (T2). -/
def execTAddReg (p : BitVec 9) (s : State) : Result :=
  narrowUnimplemented .t2 (encode (.tAddReg p)) s

/-- T_SUB_reg (T2). -/
def execTSubReg (p : BitVec 9) (s : State) : Result :=
  narrowUnimplemented .t2 (encode (.tSubReg p)) s

/-- T_ADD_imm3 (T2). -/
def execTAddImm3 (p : BitVec 9) (s : State) : Result :=
  narrowUnimplemented .t2 (encode (.tAddImm3 p)) s

/-- T_SUB_imm3 (T2). -/
def execTSubImm3 (p : BitVec 9) (s : State) : Result :=
  narrowUnimplemented .t2 (encode (.tSubImm3 p)) s

/-- T_MOV_imm (T3). -/
def execTMovImm (p : BitVec 11) (s : State) : Result :=
  narrowUnimplemented .t3 (encode (.tMovImm p)) s

/-- T_CMP_imm (T3). -/
def execTCmpImm (p : BitVec 11) (s : State) : Result :=
  narrowUnimplemented .t3 (encode (.tCmpImm p)) s

/-- T_ADD_imm8 (T3). -/
def execTAddImm8 (p : BitVec 11) (s : State) : Result :=
  narrowUnimplemented .t3 (encode (.tAddImm8 p)) s

/-- T_SUB_imm8 (T3). -/
def execTSubImm8 (p : BitVec 11) (s : State) : Result :=
  narrowUnimplemented .t3 (encode (.tSubImm8 p)) s

/-- T_AND_alu (T4). -/
def execTAndAlu (p : BitVec 6) (s : State) : Result :=
  narrowUnimplemented .t4 (encode (.tAndAlu p)) s

/-- T_EOR_alu (T4). -/
def execTEorAlu (p : BitVec 6) (s : State) : Result :=
  narrowUnimplemented .t4 (encode (.tEorAlu p)) s

/-- T_LSL_alu (T4). -/
def execTLslAlu (p : BitVec 6) (s : State) : Result :=
  narrowUnimplemented .t4 (encode (.tLslAlu p)) s

/-- T_LSR_alu (T4). -/
def execTLsrAlu (p : BitVec 6) (s : State) : Result :=
  narrowUnimplemented .t4 (encode (.tLsrAlu p)) s

/-- T_ASR_alu (T4). -/
def execTAsrAlu (p : BitVec 6) (s : State) : Result :=
  narrowUnimplemented .t4 (encode (.tAsrAlu p)) s

/-- T_ADC_alu (T4). -/
def execTAdcAlu (p : BitVec 6) (s : State) : Result :=
  narrowUnimplemented .t4 (encode (.tAdcAlu p)) s

/-- T_SBC_alu (T4). -/
def execTSbcAlu (p : BitVec 6) (s : State) : Result :=
  narrowUnimplemented .t4 (encode (.tSbcAlu p)) s

/-- T_ROR_alu (T4). -/
def execTRorAlu (p : BitVec 6) (s : State) : Result :=
  narrowUnimplemented .t4 (encode (.tRorAlu p)) s

/-- T_TST_alu (T4). -/
def execTTstAlu (p : BitVec 6) (s : State) : Result :=
  narrowUnimplemented .t4 (encode (.tTstAlu p)) s

/-- T_NEG_alu (T4). -/
def execTNegAlu (p : BitVec 6) (s : State) : Result :=
  narrowUnimplemented .t4 (encode (.tNegAlu p)) s

/-- T_CMP_alu (T4). -/
def execTCmpAlu (p : BitVec 6) (s : State) : Result :=
  narrowUnimplemented .t4 (encode (.tCmpAlu p)) s

/-- T_CMN_alu (T4). -/
def execTCmnAlu (p : BitVec 6) (s : State) : Result :=
  narrowUnimplemented .t4 (encode (.tCmnAlu p)) s

/-- T_ORR_alu (T4). -/
def execTOrrAlu (p : BitVec 6) (s : State) : Result :=
  narrowUnimplemented .t4 (encode (.tOrrAlu p)) s

/-- T_MUL_alu (T4). -/
def execTMulAlu (p : BitVec 6) (s : State) : Result :=
  narrowUnimplemented .t4 (encode (.tMulAlu p)) s

/-- T_BIC_alu (T4). -/
def execTBicAlu (p : BitVec 6) (s : State) : Result :=
  narrowUnimplemented .t4 (encode (.tBicAlu p)) s

/-- T_MVN_alu (T4). -/
def execTMvnAlu (p : BitVec 6) (s : State) : Result :=
  narrowUnimplemented .t4 (encode (.tMvnAlu p)) s

/-- T_ADD_hi (T5). -/
def execTAddHi (p : BitVec 8) (s : State) : Result :=
  narrowUnimplemented .t5 (encode (.tAddHi p)) s

/-- T_CMP_hi (T5). -/
def execTCmpHi (p : BitVec 8) (s : State) : Result :=
  narrowUnimplemented .t5 (encode (.tCmpHi p)) s

/-- T_MOV_hi (T5). -/
def execTMovHi (p : BitVec 8) (s : State) : Result :=
  narrowUnimplemented .t5 (encode (.tMovHi p)) s

/-- T_BX (T5). -/
def execTBx (p : BitVec 8) (s : State) : Result :=
  narrowUnimplemented .t5 (encode (.tBx p)) s

/-- T_LDR_pc (T6). -/
def execTLdrPc (p : BitVec 11) (s : State) : Result :=
  narrowUnimplemented .t6 (encode (.tLdrPc p)) s

/-- T_STR_reg (T7). -/
def execTStrReg (p : BitVec 9) (s : State) : Result :=
  narrowUnimplemented .t7 (encode (.tStrReg p)) s

/-- T_STRB_reg (T7). -/
def execTStrbReg (p : BitVec 9) (s : State) : Result :=
  narrowUnimplemented .t7 (encode (.tStrbReg p)) s

/-- T_LDR_reg (T7). -/
def execTLdrReg (p : BitVec 9) (s : State) : Result :=
  narrowUnimplemented .t7 (encode (.tLdrReg p)) s

/-- T_LDRB_reg (T7). -/
def execTLdrbReg (p : BitVec 9) (s : State) : Result :=
  narrowUnimplemented .t7 (encode (.tLdrbReg p)) s

/-- T_STRH_reg (T8). -/
def execTStrhReg (p : BitVec 9) (s : State) : Result :=
  narrowUnimplemented .t8 (encode (.tStrhReg p)) s

/-- T_LDSB_reg (T8). -/
def execTLdsbReg (p : BitVec 9) (s : State) : Result :=
  narrowUnimplemented .t8 (encode (.tLdsbReg p)) s

/-- T_LDRH_reg (T8). -/
def execTLdrhReg (p : BitVec 9) (s : State) : Result :=
  narrowUnimplemented .t8 (encode (.tLdrhReg p)) s

/-- T_LDSH_reg (T8). -/
def execTLdshReg (p : BitVec 9) (s : State) : Result :=
  narrowUnimplemented .t8 (encode (.tLdshReg p)) s

/-- T_STR_imm (T9). -/
def execTStrImm (p : BitVec 11) (s : State) : Result :=
  narrowUnimplemented .t9 (encode (.tStrImm p)) s

/-- T_LDR_imm (T9). -/
def execTLdrImm (p : BitVec 11) (s : State) : Result :=
  narrowUnimplemented .t9 (encode (.tLdrImm p)) s

/-- T_STRB_imm (T9). -/
def execTStrbImm (p : BitVec 11) (s : State) : Result :=
  narrowUnimplemented .t9 (encode (.tStrbImm p)) s

/-- T_LDRB_imm (T9). -/
def execTLdrbImm (p : BitVec 11) (s : State) : Result :=
  narrowUnimplemented .t9 (encode (.tLdrbImm p)) s

/-- T_STRH_imm (T10). -/
def execTStrhImm (p : BitVec 11) (s : State) : Result :=
  narrowUnimplemented .t10 (encode (.tStrhImm p)) s

/-- T_LDRH_imm (T10). -/
def execTLdrhImm (p : BitVec 11) (s : State) : Result :=
  narrowUnimplemented .t10 (encode (.tLdrhImm p)) s

/-- T_STR_sp (T11). -/
def execTStrSp (p : BitVec 11) (s : State) : Result :=
  narrowUnimplemented .t11 (encode (.tStrSp p)) s

/-- T_LDR_sp (T11). -/
def execTLdrSp (p : BitVec 11) (s : State) : Result :=
  narrowUnimplemented .t11 (encode (.tLdrSp p)) s

/-- T_ADD_pc (T12). -/
def execTAddPc (p : BitVec 11) (s : State) : Result :=
  narrowUnimplemented .t12 (encode (.tAddPc p)) s

/-- T_ADD_sp (T12). -/
def execTAddSp (p : BitVec 11) (s : State) : Result :=
  narrowUnimplemented .t12 (encode (.tAddSp p)) s

/-- T_ADD_sp_imm (T13). -/
def execTAddSpImm (p : BitVec 8) (s : State) : Result :=
  narrowUnimplemented .t13 (encode (.tAddSpImm p)) s

/-- T_PUSH (T14). -/
def execTPush (p : BitVec 9) (s : State) : Result :=
  narrowUnimplemented .t14 (encode (.tPush p)) s

/-- T_POP (T14). -/
def execTPop (p : BitVec 9) (s : State) : Result :=
  narrowUnimplemented .t14 (encode (.tPop p)) s

/-- T_STMIA (T15). -/
def execTStmia (p : BitVec 11) (s : State) : Result :=
  narrowUnimplemented .t15 (encode (.tStmia p)) s

/-- T_LDMIA (T15). -/
def execTLdmia (p : BitVec 11) (s : State) : Result :=
  narrowUnimplemented .t15 (encode (.tLdmia p)) s

/-- T_BEQ (T16). -/
def execTBeq (p : BitVec 8) (s : State) : Result :=
  narrowUnimplemented .t16 (encode (.tBeq p)) s

/-- T_BNE (T16). -/
def execTBne (p : BitVec 8) (s : State) : Result :=
  narrowUnimplemented .t16 (encode (.tBne p)) s

/-- T_BCS (T16). -/
def execTBcs (p : BitVec 8) (s : State) : Result :=
  narrowUnimplemented .t16 (encode (.tBcs p)) s

/-- T_BCC (T16). -/
def execTBcc (p : BitVec 8) (s : State) : Result :=
  narrowUnimplemented .t16 (encode (.tBcc p)) s

/-- T_BMI (T16). -/
def execTBmi (p : BitVec 8) (s : State) : Result :=
  narrowUnimplemented .t16 (encode (.tBmi p)) s

/-- T_BPL (T16). -/
def execTBpl (p : BitVec 8) (s : State) : Result :=
  narrowUnimplemented .t16 (encode (.tBpl p)) s

/-- T_BVS (T16). -/
def execTBvs (p : BitVec 8) (s : State) : Result :=
  narrowUnimplemented .t16 (encode (.tBvs p)) s

/-- T_BVC (T16). -/
def execTBvc (p : BitVec 8) (s : State) : Result :=
  narrowUnimplemented .t16 (encode (.tBvc p)) s

/-- T_BHI (T16). -/
def execTBhi (p : BitVec 8) (s : State) : Result :=
  narrowUnimplemented .t16 (encode (.tBhi p)) s

/-- T_BLS (T16). -/
def execTBls (p : BitVec 8) (s : State) : Result :=
  narrowUnimplemented .t16 (encode (.tBls p)) s

/-- T_BGE (T16). -/
def execTBge (p : BitVec 8) (s : State) : Result :=
  narrowUnimplemented .t16 (encode (.tBge p)) s

/-- T_BLT (T16). -/
def execTBlt (p : BitVec 8) (s : State) : Result :=
  narrowUnimplemented .t16 (encode (.tBlt p)) s

/-- T_BGT (T16). -/
def execTBgt (p : BitVec 8) (s : State) : Result :=
  narrowUnimplemented .t16 (encode (.tBgt p)) s

/-- T_BLE (T16). -/
def execTBle (p : BitVec 8) (s : State) : Result :=
  narrowUnimplemented .t16 (encode (.tBle p)) s

/-- T_SWI_thumb (T17). -/
def execTSwiThumb (p : BitVec 8) (s : State) : Result :=
  narrowUnimplemented .t17 (encode (.tSwiThumb p)) s

/-- T_B_thumb (T18). -/
def execTBThumb (p : BitVec 11) (s : State) : Result :=
  narrowUnimplemented .t18 (encode (.tBThumb p)) s

/-- T_BL_prefix (T19). -/
def execTBlPrefix (p : BitVec 11) (s : State) : Result :=
  narrowUnimplemented .t19 (encode (.tBlPrefix p)) s

/-- T_BL_suffix (T19). -/
def execTBlSuffix (p : BitVec 11) (s : State) : Result :=
  narrowUnimplemented .t19 (encode (.tBlSuffix p)) s

end Sys2Proof.Machine
end

