-- ==== Sys2Proof/Machine/NarrowUndefined.lean ====
section
/-! DEFINITION. The Narrow words that match no format (30_encoding.md R114; 40_dispatch.md R137). -/
namespace Sys2Proof.Machine

/-- NARROW_UNDEF_B1. -/
def execNarrowUndefB1 (p : BitVec 8) (s : State) : Result :=
  narrowUnimplemented .undefined (encode (.narrowUndefB1 p)) s

/-- NARROW_UNDEF_B2. -/
def execNarrowUndefB2 (p : BitVec 8) (s : State) : Result :=
  narrowUnimplemented .undefined (encode (.narrowUndefB2 p)) s

/-- NARROW_UNDEF_B3. -/
def execNarrowUndefB3 (p : BitVec 8) (s : State) : Result :=
  narrowUnimplemented .undefined (encode (.narrowUndefB3 p)) s

/-- NARROW_UNDEF_B6. -/
def execNarrowUndefB6 (p : BitVec 8) (s : State) : Result :=
  narrowUnimplemented .undefined (encode (.narrowUndefB6 p)) s

/-- NARROW_UNDEF_B7. -/
def execNarrowUndefB7 (p : BitVec 8) (s : State) : Result :=
  narrowUnimplemented .undefined (encode (.narrowUndefB7 p)) s

/-- NARROW_UNDEF_B8. -/
def execNarrowUndefB8 (p : BitVec 8) (s : State) : Result :=
  narrowUnimplemented .undefined (encode (.narrowUndefB8 p)) s

/-- NARROW_UNDEF_B9. -/
def execNarrowUndefB9 (p : BitVec 8) (s : State) : Result :=
  narrowUnimplemented .undefined (encode (.narrowUndefB9 p)) s

/-- NARROW_UNDEF_BA. -/
def execNarrowUndefBa (p : BitVec 8) (s : State) : Result :=
  narrowUnimplemented .undefined (encode (.narrowUndefBa p)) s

/-- NARROW_UNDEF_BB. -/
def execNarrowUndefBb (p : BitVec 8) (s : State) : Result :=
  narrowUnimplemented .undefined (encode (.narrowUndefBb p)) s

/-- NARROW_UNDEF_BE. -/
def execNarrowUndefBe (p : BitVec 8) (s : State) : Result :=
  narrowUnimplemented .undefined (encode (.narrowUndefBe p)) s

/-- NARROW_UNDEF_BF. -/
def execNarrowUndefBf (p : BitVec 8) (s : State) : Result :=
  narrowUnimplemented .undefined (encode (.narrowUndefBf p)) s

/-- NARROW_UNDEF_DE. -/
def execNarrowUndefDe (p : BitVec 8) (s : State) : Result :=
  narrowUnimplemented .undefined (encode (.narrowUndefDe p)) s

/-- NARROW_UNDEF_E8_EF. -/
def execNarrowUndefE8Ef (p : BitVec 11) (s : State) : Result :=
  narrowUnimplemented .undefined (encode (.narrowUndefE8Ef p)) s

end Sys2Proof.Machine
end

