-- ==== Sys2Proof/Machine/System.lean ====
section
/-! DEFINITION. The Undefined class and SWI (43_unimplemented.md R170, R171, R175): classified, with no handler. Neither raises a trap,
enters a mode or saves state (60_exceptions.md R187; conflict C2). -/
namespace Sys2Proof.Machine

/-- UNDEFINED_000. -/
def execUndefined000 (c : Cond) (f : Undef000Bits) (s : State) : Result :=
  wideUnimplemented .undefined c (encode (.undefined000 c f)) s

/-- UNDEFINED_011. -/
def execUndefined011 (c : Cond) (f : Undef011Bits) (s : State) : Result :=
  wideUnimplemented .undefined c (encode (.undefined011 c f)) s

/-- SWI. -/
def execSwi (c : Cond) (comment : BitVec 24) (s : State) : Result :=
  wideUnimplemented .softwareInterrupt c (encode (.swi c comment)) s

end Sys2Proof.Machine
end

