-- ==== Sys2Proof/Machine/Transfer.lean ====
section
/-! DEFINITION. Single and block data transfers (43_unimplemented.md R170, R171, R176): classified, with no handler. No memory is accessed. -/
namespace Sys2Proof.Machine

/-- STR. -/
def execStr (c : Cond) (f : TransferFields) (s : State) : Result :=
  wideUnimplemented .singleDataTransfer c (encode (.str c f)) s

/-- LDR. -/
def execLdr (c : Cond) (f : TransferFields) (s : State) : Result :=
  wideUnimplemented .singleDataTransfer c (encode (.ldr c f)) s

/-- STRB. -/
def execStrb (c : Cond) (f : TransferFields) (s : State) : Result :=
  wideUnimplemented .singleDataTransfer c (encode (.strb c f)) s

/-- LDRB. -/
def execLdrb (c : Cond) (f : TransferFields) (s : State) : Result :=
  wideUnimplemented .singleDataTransfer c (encode (.ldrb c f)) s

/-- STM. -/
def execStm (c : Cond) (f : BlockFields) (s : State) : Result :=
  wideUnimplemented .blockDataTransfer c (encode (.stm c f)) s

/-- LDM. -/
def execLdm (c : Cond) (f : BlockFields) (s : State) : Result :=
  wideUnimplemented .blockDataTransfer c (encode (.ldm c f)) s

end Sys2Proof.Machine
end

