-- ==== Sys2Proof/Machine/Dispatch.lean ====
section
/-! DEFINITION. One arm per instruction of the opcode table; every arm calls the instruction's meaning. -/
namespace Sys2Proof.Machine

/-- One instruction executed: condition, handler and counter (40_dispatch.md R138 after classification). -/
def exec (i : Instr) (s : State) : Host.Outcome State Fault Refusal :=
  match i with
  | .b c offset24 => Sys2Proof.Machine.execB c offset24 s
  | .bl c offset24 => Sys2Proof.Machine.execBl c offset24 s
  | .bx c rm => Sys2Proof.Machine.execBx c rm s
  | .bxR15 c => Sys2Proof.Machine.execBxR15 c s
  | .mul c f => Sys2Proof.Machine.execMul c f s
  | .mla c f => Sys2Proof.Machine.execMla c f s
  | .and c f => Sys2Proof.Machine.execAnd c f s
  | .eor c f => Sys2Proof.Machine.execEor c f s
  | .sub c f => Sys2Proof.Machine.execSub c f s
  | .rsb c f => Sys2Proof.Machine.execRsb c f s
  | .add c f => Sys2Proof.Machine.execAdd c f s
  | .adc c f => Sys2Proof.Machine.execAdc c f s
  | .sbc c f => Sys2Proof.Machine.execSbc c f s
  | .rsc c f => Sys2Proof.Machine.execRsc c f s
  | .tst c f => Sys2Proof.Machine.execTst c f s
  | .teq c f => Sys2Proof.Machine.execTeq c f s
  | .cmp c f => Sys2Proof.Machine.execCmp c f s
  | .cmn c f => Sys2Proof.Machine.execCmn c f s
  | .orr c f => Sys2Proof.Machine.execOrr c f s
  | .mov c f => Sys2Proof.Machine.execMov c f s
  | .bic c f => Sys2Proof.Machine.execBic c f s
  | .mvn c f => Sys2Proof.Machine.execMvn c f s
  | .mrs c ps rd => Sys2Proof.Machine.execMrs c ps rd s
  | .msrReg c pd fieldmask rm => Sys2Proof.Machine.execMsrReg c pd fieldmask rm s
  | .msrImm c pd fieldmask imm => Sys2Proof.Machine.execMsrImm c pd fieldmask imm s
  | .umull c f => Sys2Proof.Machine.execUmull c f s
  | .umlal c f => Sys2Proof.Machine.execUmlal c f s
  | .smull c f => Sys2Proof.Machine.execSmull c f s
  | .smlal c f => Sys2Proof.Machine.execSmlal c f s
  | .swp c f => Sys2Proof.Machine.execSwp c f s
  | .swpb c f => Sys2Proof.Machine.execSwpb c f s
  | .strhReg c f => Sys2Proof.Machine.execStrhReg c f s
  | .strhImm c f => Sys2Proof.Machine.execStrhImm c f s
  | .ldrhReg c f => Sys2Proof.Machine.execLdrhReg c f s
  | .ldrhImm c f => Sys2Proof.Machine.execLdrhImm c f s
  | .ldrsbReg c f => Sys2Proof.Machine.execLdrsbReg c f s
  | .ldrsbImm c f => Sys2Proof.Machine.execLdrsbImm c f s
  | .ldrshReg c f => Sys2Proof.Machine.execLdrshReg c f s
  | .ldrshImm c f => Sys2Proof.Machine.execLdrshImm c f s
  | .hdtL0Sh10Reg c f => Sys2Proof.Machine.execHdtL0Sh10Reg c f s
  | .hdtL0Sh10Imm c f => Sys2Proof.Machine.execHdtL0Sh10Imm c f s
  | .hdtL0Sh11Reg c f => Sys2Proof.Machine.execHdtL0Sh11Reg c f s
  | .hdtL0Sh11Imm c f => Sys2Proof.Machine.execHdtL0Sh11Imm c f s
  | .undefined000 c f => Sys2Proof.Machine.execUndefined000 c f s
  | .undefined011 c f => Sys2Proof.Machine.execUndefined011 c f s
  | .str c f => Sys2Proof.Machine.execStr c f s
  | .ldr c f => Sys2Proof.Machine.execLdr c f s
  | .strb c f => Sys2Proof.Machine.execStrb c f s
  | .ldrb c f => Sys2Proof.Machine.execLdrb c f s
  | .stm c f => Sys2Proof.Machine.execStm c f s
  | .ldm c f => Sys2Proof.Machine.execLdm c f s
  | .stc c f => Sys2Proof.Machine.execStc c f s
  | .ldc c f => Sys2Proof.Machine.execLdc c f s
  | .cdp c f => Sys2Proof.Machine.execCdp c f s
  | .mcr c f => Sys2Proof.Machine.execMcr c f s
  | .mrc c f => Sys2Proof.Machine.execMrc c f s
  | .swi c comment => Sys2Proof.Machine.execSwi c comment s
  | .tLsl p => Sys2Proof.Machine.execTLsl p s
  | .tLsr p => Sys2Proof.Machine.execTLsr p s
  | .tAsr p => Sys2Proof.Machine.execTAsr p s
  | .tAddReg p => Sys2Proof.Machine.execTAddReg p s
  | .tSubReg p => Sys2Proof.Machine.execTSubReg p s
  | .tAddImm3 p => Sys2Proof.Machine.execTAddImm3 p s
  | .tSubImm3 p => Sys2Proof.Machine.execTSubImm3 p s
  | .tMovImm p => Sys2Proof.Machine.execTMovImm p s
  | .tCmpImm p => Sys2Proof.Machine.execTCmpImm p s
  | .tAddImm8 p => Sys2Proof.Machine.execTAddImm8 p s
  | .tSubImm8 p => Sys2Proof.Machine.execTSubImm8 p s
  | .tAndAlu p => Sys2Proof.Machine.execTAndAlu p s
  | .tEorAlu p => Sys2Proof.Machine.execTEorAlu p s
  | .tLslAlu p => Sys2Proof.Machine.execTLslAlu p s
  | .tLsrAlu p => Sys2Proof.Machine.execTLsrAlu p s
  | .tAsrAlu p => Sys2Proof.Machine.execTAsrAlu p s
  | .tAdcAlu p => Sys2Proof.Machine.execTAdcAlu p s
  | .tSbcAlu p => Sys2Proof.Machine.execTSbcAlu p s
  | .tRorAlu p => Sys2Proof.Machine.execTRorAlu p s
  | .tTstAlu p => Sys2Proof.Machine.execTTstAlu p s
  | .tNegAlu p => Sys2Proof.Machine.execTNegAlu p s
  | .tCmpAlu p => Sys2Proof.Machine.execTCmpAlu p s
  | .tCmnAlu p => Sys2Proof.Machine.execTCmnAlu p s
  | .tOrrAlu p => Sys2Proof.Machine.execTOrrAlu p s
  | .tMulAlu p => Sys2Proof.Machine.execTMulAlu p s
  | .tBicAlu p => Sys2Proof.Machine.execTBicAlu p s
  | .tMvnAlu p => Sys2Proof.Machine.execTMvnAlu p s
  | .tAddHi p => Sys2Proof.Machine.execTAddHi p s
  | .tCmpHi p => Sys2Proof.Machine.execTCmpHi p s
  | .tMovHi p => Sys2Proof.Machine.execTMovHi p s
  | .tBx p => Sys2Proof.Machine.execTBx p s
  | .tLdrPc p => Sys2Proof.Machine.execTLdrPc p s
  | .tStrReg p => Sys2Proof.Machine.execTStrReg p s
  | .tStrbReg p => Sys2Proof.Machine.execTStrbReg p s
  | .tLdrReg p => Sys2Proof.Machine.execTLdrReg p s
  | .tLdrbReg p => Sys2Proof.Machine.execTLdrbReg p s
  | .tStrhReg p => Sys2Proof.Machine.execTStrhReg p s
  | .tLdsbReg p => Sys2Proof.Machine.execTLdsbReg p s
  | .tLdrhReg p => Sys2Proof.Machine.execTLdrhReg p s
  | .tLdshReg p => Sys2Proof.Machine.execTLdshReg p s
  | .tStrImm p => Sys2Proof.Machine.execTStrImm p s
  | .tLdrImm p => Sys2Proof.Machine.execTLdrImm p s
  | .tStrbImm p => Sys2Proof.Machine.execTStrbImm p s
  | .tLdrbImm p => Sys2Proof.Machine.execTLdrbImm p s
  | .tStrhImm p => Sys2Proof.Machine.execTStrhImm p s
  | .tLdrhImm p => Sys2Proof.Machine.execTLdrhImm p s
  | .tStrSp p => Sys2Proof.Machine.execTStrSp p s
  | .tLdrSp p => Sys2Proof.Machine.execTLdrSp p s
  | .tAddPc p => Sys2Proof.Machine.execTAddPc p s
  | .tAddSp p => Sys2Proof.Machine.execTAddSp p s
  | .tAddSpImm p => Sys2Proof.Machine.execTAddSpImm p s
  | .tPush p => Sys2Proof.Machine.execTPush p s
  | .tPop p => Sys2Proof.Machine.execTPop p s
  | .tStmia p => Sys2Proof.Machine.execTStmia p s
  | .tLdmia p => Sys2Proof.Machine.execTLdmia p s
  | .tBeq p => Sys2Proof.Machine.execTBeq p s
  | .tBne p => Sys2Proof.Machine.execTBne p s
  | .tBcs p => Sys2Proof.Machine.execTBcs p s
  | .tBcc p => Sys2Proof.Machine.execTBcc p s
  | .tBmi p => Sys2Proof.Machine.execTBmi p s
  | .tBpl p => Sys2Proof.Machine.execTBpl p s
  | .tBvs p => Sys2Proof.Machine.execTBvs p s
  | .tBvc p => Sys2Proof.Machine.execTBvc p s
  | .tBhi p => Sys2Proof.Machine.execTBhi p s
  | .tBls p => Sys2Proof.Machine.execTBls p s
  | .tBge p => Sys2Proof.Machine.execTBge p s
  | .tBlt p => Sys2Proof.Machine.execTBlt p s
  | .tBgt p => Sys2Proof.Machine.execTBgt p s
  | .tBle p => Sys2Proof.Machine.execTBle p s
  | .tSwiThumb p => Sys2Proof.Machine.execTSwiThumb p s
  | .tBThumb p => Sys2Proof.Machine.execTBThumb p s
  | .tBlPrefix p => Sys2Proof.Machine.execTBlPrefix p s
  | .tBlSuffix p => Sys2Proof.Machine.execTBlSuffix p s
  | .narrowUndefB1 p => Sys2Proof.Machine.execNarrowUndefB1 p s
  | .narrowUndefB2 p => Sys2Proof.Machine.execNarrowUndefB2 p s
  | .narrowUndefB3 p => Sys2Proof.Machine.execNarrowUndefB3 p s
  | .narrowUndefB6 p => Sys2Proof.Machine.execNarrowUndefB6 p s
  | .narrowUndefB7 p => Sys2Proof.Machine.execNarrowUndefB7 p s
  | .narrowUndefB8 p => Sys2Proof.Machine.execNarrowUndefB8 p s
  | .narrowUndefB9 p => Sys2Proof.Machine.execNarrowUndefB9 p s
  | .narrowUndefBa p => Sys2Proof.Machine.execNarrowUndefBa p s
  | .narrowUndefBb p => Sys2Proof.Machine.execNarrowUndefBb p s
  | .narrowUndefBe p => Sys2Proof.Machine.execNarrowUndefBe p s
  | .narrowUndefBf p => Sys2Proof.Machine.execNarrowUndefBf p s
  | .narrowUndefDe p => Sys2Proof.Machine.execNarrowUndefDe p s
  | .narrowUndefE8Ef p => Sys2Proof.Machine.execNarrowUndefE8Ef p s

end Sys2Proof.Machine
end

