-- ==== Sys2Proof/Machine/Address.lean ====
section
/-! DEFINITION. The address decoder (20_memory.md R50-R60, R83): every 32-bit address resolves to one byte of backing
storage or is out of range. It is a function of the address and the parameters alone (R53). -/
namespace Sys2Proof.Machine

/-- The regions with backing storage (R40, R52). -/
inductive Region where
  | boot
  | wram1
  | wram2
  | io
  | palette
  | vram
  | oam
  | rom
  deriving DecidableEq, Repr

/-- A bus address with the byte it resolves to (R53). -/
structure Loc where
  bus : Word
  region : Region
  offset : Nat
  deriving DecidableEq, Repr

/-- The base of a region's primary copy (R52). -/
def regionBase : Region → Nat
  | .boot => 0x00000000
  | .wram1 => 0x02000000
  | .wram2 => 0x03000000
  | .io => 0x04000000
  | .palette => 0x05000000
  | .vram => 0x06000000
  | .oam => 0x07000000
  | .rom => 0x08000000

/-- The declared size of a region (R52); the ROM's is `P_ROM_SIZE`. -/
def regionSize (p : Params) : Region → Nat
  | .boot => 0x4000
  | .wram1 => 0x40000
  | .wram2 => 0x8000
  | .io => 0x400
  | .palette => 0x400
  | .vram => 0x18000
  | .oam => 0x400
  | .rom => p.romSize

/-- The resolved address of a pair (region, offset) (R53, R60). -/
def resolvedAddr (l : Loc) : Nat := regionBase l.region + l.offset

/-- `vram_fold` (R55). -/
def vramFold (p : Params) (o : Nat) : Nat :=
  match p.vramMirror with
  | .gba128 => if o % 0x20000 < 0x18000 then o % 0x20000 else o % 0x20000 - 0x8000
  | .mod96 => o % 0x18000

/-- `rom_index` for a window that starts at `base` (R53, R56). -/
def romIndex (p : Params) (a : Word) (base : Nat) : Except PortFault Loc :=
  if a.toNat - base < p.romSize then .ok ⟨a, .rom, a.toNat - base⟩ else .error (.outOfRange a)

/-- `resolve` (R53): decided by `a[31:24]`, then by the region's own rule. -/
def resolve (p : Params) (a : Word) : Except PortFault Loc :=
  match a.toNat / 0x1000000 with
  | 0x00 => if a.toNat < 0x00004000 then .ok ⟨a, .boot, a.toNat⟩ else .error (.outOfRange a)
  | 0x02 => .ok ⟨a, .wram1, (a.toNat - 0x02000000) % 0x40000⟩
  | 0x03 => .ok ⟨a, .wram2, (a.toNat - 0x03000000) % 0x8000⟩
  | 0x04 => if a.toNat < 0x04000400 then .ok ⟨a, .io, a.toNat - 0x04000000⟩ else .error (.outOfRange a)
  | 0x05 => .ok ⟨a, .palette, (a.toNat - 0x05000000) % 0x400⟩
  | 0x06 => .ok ⟨a, .vram, vramFold p (a.toNat - 0x06000000)⟩
  | 0x07 => .ok ⟨a, .oam, (a.toNat - 0x07000000) % 0x400⟩
  | 0x08 | 0x09 => romIndex p a 0x08000000
  | 0x0A | 0x0B => romIndex p a 0x0A000000
  | 0x0C | 0x0D => romIndex p a 0x0C000000
  | _ => .error (.outOfRange a)

/-- `a` lies in the primary copy of region `r`. -/
def inPrimary (p : Params) (r : Region) (a : Word) : Bool :=
  decide (regionBase r ≤ a.toNat) && decide (a.toNat < regionBase r + regionSize p r)

/-- The unprotected accessors' domain (R83, R84): an address in the primary copy of a region, taken as it stands. -/
def rawResolve (p : Params) (a : Word) : Except PortFault Loc :=
  if inPrimary p .boot a then .ok ⟨a, .boot, a.toNat - regionBase .boot⟩
  else if inPrimary p .wram1 a then .ok ⟨a, .wram1, a.toNat - regionBase .wram1⟩
  else if inPrimary p .wram2 a then .ok ⟨a, .wram2, a.toNat - regionBase .wram2⟩
  else if inPrimary p .io a then .ok ⟨a, .io, a.toNat - regionBase .io⟩
  else if inPrimary p .palette a then .ok ⟨a, .palette, a.toNat - regionBase .palette⟩
  else if inPrimary p .vram a then .ok ⟨a, .vram, a.toNat - regionBase .vram⟩
  else if inPrimary p .oam a then .ok ⟨a, .oam, a.toNat - regionBase .oam⟩
  else if inPrimary p .rom a then .ok ⟨a, .rom, a.toNat - regionBase .rom⟩
  else .error (.outOfRange a)

/-- Resolve the `n` byte addresses `a`, `a + 1`, ... modulo 2^32 (R80, R81, R97), each on its own; the first one that does
not resolve ends the access (R59, R86). -/
def spanOf (res : Word → Except PortFault Loc) (a : Word) : Nat → Except PortFault (List Loc)
  | 0 => .ok []
  | n + 1 =>
    match res a with
    | .error e => .error e
    | .ok l =>
      match spanOf res (a + 1) n with
      | .error e => .error e
      | .ok ls => .ok (l :: ls)

end Sys2Proof.Machine
end

