-- ==== Sys2Proof/Machine/Access.lean ====
section
/-! DEFINITION. The load/store controller (20_memory.md R62, R70-R91): protected and unprotected accessors, byte-composed
and little-endian, and the side effects of the memory-mapped registers. -/
namespace Sys2Proof.Machine

/-- The access widths (R89). -/
inductive Width where
  | byte
  | half
  | word
  deriving DecidableEq, Repr

/-- `n` of R80, R81 and R84. -/
def Width.bytes : Width → Nat
  | .byte => 1
  | .half => 2
  | .word => 4

/-! ## Reading one byte -/

/-- The backing byte of a location. -/
def backingByte (l : Loc) (s : State) : Byte := Memory.read s.mem (resolvedAddr l)

/-- The synthesized DISPSTAT byte `{0b000000, hblank, vblank}` (R74). -/
def dispstatByte (s : State) : Byte :=
  (BitVec.ofBool s.vblank).setWidth 8 ||| ((BitVec.ofBool s.hblank).setWidth 8 <<< 1)

/-- `ReadByteP` of a resolved location (R74, R75, R78). -/
def loadByte (l : Loc) (s : State) : Byte :=
  if l.region = .io ∧ l.offset = 0x004 then dispstatByte s
  else if l.region = .io ∧ l.offset = 0x006 then s.scanline.extractLsb' 0 8
  else if l.region = .io ∧ l.offset = 0x007 then s.scanline.extractLsb' 8 8
  else backingByte l s

/-! ## Writing one byte -/

/-- `store[r][o] <- b` (R76). -/
def storeBacking (l : Loc) (b : Byte) (s : State) : State :=
  { s with mem := Memory.write s.mem (resolvedAddr l) b }

/-- A byte stored in cartridge ROM, with the anomaly it logs (R62, R84). -/
def storeRom (l : Loc) (b : Byte) (s : State) : State :=
  { storeBacking l b s with anomalies := s.anomalies ++ [{ bus := l.bus, index := l.offset, byte := b }] }

/-- Store the backing byte only if the parameter says so (R71-R73). -/
def storeBackingIf (store : Bool) (l : Loc) (b : Byte) (s : State) : State :=
  if store then storeBacking l b s else s

/-- DISPCNT low byte (R71). -/
def dispcntLow (b : Byte) (ds : DisplayStatus) : DisplayStatus :=
  { ds with bgMode := b.extractLsb' 0 3, objMapping := b.getLsbD 6 }

/-- DISPCNT high byte (R71). -/
def dispcntHigh (b : Byte) (ds : DisplayStatus) : DisplayStatus :=
  { ds with bgEnable := #v[b.getLsbD 0, b.getLsbD 1, b.getLsbD 2, b.getLsbD 3], objEnable := b.getLsbD 4 }

/-- BGnCNT low byte (R72). -/
def bgcntLow (b : Byte) (g : BgControl) : BgControl :=
  { g with priority := b.extractLsb' 0 2, charBase := b.extractLsb' 2 2, mosaic := b.getLsbD 6,
           colorDepth := b.getLsbD 7 }

/-- BGnCNT high byte (R72). -/
def bgcntHigh (b : Byte) (g : BgControl) : BgControl :=
  { g with screenBase := b.extractLsb' 0 5, size := b.extractLsb' 6 2 }

/-- The background of an I/O offset in `0x008..0x00F` (R79: `n = (o - 8) / 2`). -/
def bgIndex (o : Nat) : Fin 4 := Fin.ofNat 4 ((o - 8) / 2)

/-- A write to one background leaves the others as they were (R72). -/
def updateBg (n : Fin 4) (f : BgControl → BgControl) (ds : DisplayStatus) : DisplayStatus :=
  { ds with bg := ds.bg.set n (f ds.bg[n]) }

/-- The non-sequential cycle cost: the table `[4, 3, 2, 8]` at `b[3:2]` (R73). -/
def waitN (b : Byte) : Nat :=
  match b.getLsbD 3, b.getLsbD 2 with
  | false, false => 4
  | false, true => 3
  | true, false => 2
  | true, true => 8

/-- The sequential cycle cost: the table `[2, 1]` at `b[4]` (R73). -/
def waitS (b : Byte) : Nat :=
  match b.getLsbD 4 with
  | false => 2
  | true => 1

/-- The display fields after a protected write of `b` at I/O offset `o` (R71-R73); other offsets change none. -/
def displayAfter (o : Nat) (b : Byte) (ds : DisplayStatus) : DisplayStatus :=
  if o = 0x000 then dispcntLow b ds
  else if o = 0x001 then dispcntHigh b ds
  else if 0x008 ≤ o ∧ o ≤ 0x00F then
    updateBg (bgIndex o) (if o % 2 = 0 then bgcntLow b else bgcntHigh b) ds
  else if o = 0x204 then { ds with wsN := waitN b, wsS := waitS b }
  else ds

/-- Whether a protected write at I/O offset `o` also reaches the backing byte (R71-R73, R76). -/
def ioStores (p : Params) (o : Nat) : Bool :=
  if o = 0x000 ∨ o = 0x001 ∨ (0x008 ≤ o ∧ o ≤ 0x00F) then p.displayBackingWrite
  else if o = 0x204 ∨ o = 0x205 then p.waitcntBackingWrite
  else true

/-- A protected byte write in the I/O block (R71-R76). -/
def storeIo (l : Loc) (b : Byte) (s : State) : State :=
  storeBackingIf (ioStores s.params l.offset) l b { s with ds := displayAfter l.offset b s.ds }

/-- `WriteByteP` of a resolved location (R79). -/
def storeByte (l : Loc) (b : Byte) (s : State) : State :=
  match l.region with
  | .rom => storeRom l b s
  | .io => storeIo l b s
  | .boot | .wram1 | .wram2 | .palette | .vram | .oam => storeBacking l b s

/-- An unprotected byte write (R84): no side effect but the anomaly of a ROM write. -/
def storeByteRaw (l : Loc) (b : Byte) (s : State) : State :=
  match l.region with
  | .rom => storeRom l b s
  | .boot | .wram1 | .wram2 | .io | .palette | .vram | .oam => storeBacking l b s

/-- The low bytes of `v`, written to the locations in ascending order (R81, R84). -/
def storeAll (store : Loc → Byte → State → State) (ls : List Loc) (v : Word) (s : State) : State :=
  match ls with
  | [] => s
  | l :: rest => storeAll store rest (v >>> 8) (store l (v.setWidth 8) s)

/-! ## The accessors -/

/-- `ReadByteP` (R78). -/
def readByteP (a : Word) (s : State) : Except PortFault Byte :=
  match resolve s.params a with
  | .error e => .error e
  | .ok l => .ok (loadByte l s)

/-- `WriteByteP` (R79). -/
def writeByteP (a : Word) (b : Byte) (s : State) : Except PortFault State :=
  match resolve s.params a with
  | .error e => .error e
  | .ok l => .ok (storeByte l b s)

/-- `MemRead` (R80): zero-extended to 32 bits. -/
def memRead (a : Word) (w : Width) (s : State) : Except PortFault Word :=
  match spanOf (resolve s.params) a w.bytes with
  | .error e => .error e
  | .ok ls => .ok (leWord (ls.map fun l => loadByte l s))

/-- `MemWrite` (R81): every byte is resolved before any is written (R86). -/
def memWrite (a : Word) (w : Width) (v : Word) (s : State) : Except PortFault State :=
  match spanOf (resolve s.params) a w.bytes with
  | .error e => .error e
  | .ok ls => .ok (storeAll storeByte ls v s)

/-- `RawRead` (R84). -/
def rawRead (a : Word) (w : Width) (s : State) : Except PortFault Word :=
  match spanOf (rawResolve s.params) a w.bytes with
  | .error e => .error e
  | .ok ls => .ok (leWord (ls.map fun l => backingByte l s))

/-- `RawWrite` (R84). -/
def rawWrite (a : Word) (w : Width) (v : Word) (s : State) : Except PortFault State :=
  match spanOf (rawResolve s.params) a w.bytes with
  | .error e => .error e
  | .ok ls => .ok (storeAll storeByteRaw ls v s)

end Sys2Proof.Machine
end

