-- ==== Sys2Proof/Machine/Fetch.lean ====
section
/-! DEFINITION. Instruction fetch (40_dispatch.md R132; 20_memory.md R91), and the placing of a word where it is fetched. -/
namespace Sys2Proof.Machine

/-- The width of a fetch (R132). -/
def fetchWidth : InstrSet → Width
  | .wide => .word
  | .narrow => .half

/-- Fetch and decode: a protected read at the unmodified counter; the first byte that does not resolve is the fetch fault
(R132, E1). -/
def fetch (s : State) : Except Fault Instr :=
  match memRead (pcOf s) (fetchWidth s.isa) s with
  | .error (.outOfRange a) => .error (.fetchFault a)
  | .ok w => .ok (decodeFetched s.isa w)

/-- Bytes put in backing storage at the consecutive bus addresses from `a`, with no side effect and no anomaly: the
loader's act (70_reset_and_hazards.md R203), not a port's. An address that does not resolve is passed over (log entry 16). -/
def placeBytes (bs : List Byte) (a : Word) (s : State) : State :=
  match bs with
  | [] => s
  | b :: rest =>
    match resolve s.params a with
    | .error _ => placeBytes rest (a + 1) s
    | .ok l => placeBytes rest (a + 1) (storeBacking l b s)

end Sys2Proof.Machine
end

