-- ==== Sys2Proof/Machine/Step.lean ====
section
/-! DEFINITION. One step (40_dispatch.md R138): fetch, decode, execute. `exec` evaluates the condition and advances the
counter. -/
namespace Sys2Proof.Machine

/-- The whole step as one function (R138). -/
def step (s : State) : Host.Outcome State Fault Refusal :=
  match fetch s with
  | .error e => .fault e
  | .ok i => exec i s

/-- `s` with the opcode table's word `w` stored at the counter, and the instruction set in which a word of `nbits` bits is
fetched (log entry 16). -/
def State.withFetchWord (s : State) (nbits w : Nat) : State :=
  switchInstrSet (tableIsa nbits)
    (placeBytes (leBytes (BitVec.ofNat 32 w) (tableIsa nbits).bytes) (pcOf s) s)

end Sys2Proof.Machine
end

