-- ==== Sys2Proof/Machine/HostPorts.lean ====
section
/-! DEFINITION. The host's ports between steps (60_exceptions.md R190; 10_state.md R22-R45; 20_memory.md R80-R84). -/
namespace Sys2Proof.Machine

/-! ## Reads -/

/-- A host read of `x[i]`; `none` is "unwritten" (R45). -/
def hostReadReg (i : Reg) (s : State) : Option Word :=
  if s.written.getReg (regSlot s.mode i) then some (readReg i s) else none

/-- A host `get_flag` (R28); `none` is "unwritten" (R45). -/
def hostGetFlag (f : Flag) (s : State) : Option Bool :=
  if s.written.getFlag s.mode f then some (getFlag f s) else none

/-- The active flags as one word (R29); `none` if any of them is unwritten (R45; log entry 23). -/
def hostFlagWord (s : State) : Option Word :=
  match firstUnwritten [.n, .z, .c, .v] s with
  | some _ => none
  | none => some (flagWord (activeFlags s))

/-! ## Actions -/

/-- Writing the four flags from one word (R29): bits 27:0 are ignored. -/
def setFlagWord (w : Word) (s : State) : State :=
  setFlag .v (w.getLsbD 28) (setFlag .c (w.getLsbD 29) (setFlag .z (w.getLsbD 30) (setFlag .n (w.getLsbD 31) s)))

/-- Driving the display inputs (R38). -/
def driveDisplay (vblank hblank : Bool) (scanline : BitVec 16) (s : State) : State :=
  { s with vblank := vblank, hblank := hblank, scanline := scanline }

/-- What the host may do between steps, besides reading (R190). -/
inductive HostAction where
  | writeReg (i : Reg) (v : Word)
  | setFlag (f : Flag) (b : Bool)
  | setFlagWord (w : Word)
  | switchMode (m : Mode)
  | switchModeBits (e : BitVec 5)
  | switchInstrSet (i : InstrSet)
  | protectedWrite (a : Word) (w : Width) (v : Word)
  | rawWrite (a : Word) (w : Width) (v : Word)
  | driveDisplay (vblank hblank : Bool) (scanline : BitVec 16)
  deriving DecidableEq, Repr

/-- The state after a host action, or the fault its port answers with, the state kept (R181, R190). -/
def hostAct (h : HostAction) (s : State) : Except PortFault State :=
  match h with
  | .writeReg i v => .ok (Sys2Proof.Machine.writeReg i v s)
  | .setFlag f b => .ok (Sys2Proof.Machine.setFlag f b s)
  | .setFlagWord w => .ok (Sys2Proof.Machine.setFlagWord w s)
  | .switchMode m => .ok (switchOperatingMode m s)
  | .switchModeBits e => .ok (switchOperatingMode (modeOfBits e) s)
  | .switchInstrSet i => .ok (Sys2Proof.Machine.switchInstrSet i s)
  | .protectedWrite a w v => memWrite a w v s
  | .rawWrite a w v => Sys2Proof.Machine.rawWrite a w v s
  | .driveDisplay vb hb sl => .ok (Sys2Proof.Machine.driveDisplay vb hb sl s)

end Sys2Proof.Machine
end

