-- ==== Sys2Proof/Machine/Loader.lean ====
section
/-! DEFINITION. The session start (70_reset_and_hazards.md R200-R203; 10_state.md R44): the loader's images and the OPEN
parameters give the state before the first step, or the session does not start (60_exceptions.md R182, E8). -/
namespace Sys2Proof.Machine

/-- An image as memory entries from address `a` on, in canonical form. -/
def imageCells (bs : List Byte) (a : Nat) : Memory :=
  match bs with
  | [] => []
  | b :: rest => if b = 0#8 then imageCells rest (a + 1) else (a, b) :: imageCells rest (a + 1)

/-- The written marks at reset (R44, R45). -/
def resetMarks : ResetRegs → RegFile Bool Bool
  | .zero => RegFile.fill true true
  | .unwritten => { RegFile.fill false false with gpr15 := true }

/-- The state a valid session starts in (R44, R200). Under UNWRITTEN the value behind a clear mark is never shown: an
instruction's read faults and a host read answers "unwritten" (R45). -/
def launchState (l : Launch) : State where
  regs := { RegFile.fill 0 false with gpr15 := l.resetPc }
  written := resetMarks l.resetRegs
  isa := .wide
  mode := l.resetMode
  mem := imageCells l.bootImage 0x00000000 ++ imageCells l.romImage 0x08000000
  ds := DisplayStatus.reset
  vblank := false
  hblank := false
  scanline := 0
  anomalies := []
  draws := 0
  params :=
    { romSize := l.romImage.length
      vramMirror := l.vramMirror
      waitcntBackingWrite := l.waitcntBackingWrite
      displayBackingWrite := l.displayBackingWrite
      mulCV := l.mulCV }

/-- The loader's contract (R203): 16,384 boot bytes and a ROM of 1 to 0x02000000 bytes, or no session. When both images are
bad the boot image is the one reported (DESIGN CHOICE, safe: log entry 21). -/
def launch (l : Launch) : Except LoadError State :=
  if l.bootImage.length = 0x4000 then
    if 1 ≤ l.romImage.length ∧ l.romImage.length ≤ maxRomSize then .ok (launchState l) else .error .badRomImage
  else .error .badBootImage

end Sys2Proof.Machine
end

