-- ==== Sys2Proof/Safety.lean ====
section
/-! DEFINITION. The terms in which claims speak: conditions and readable operands, what two states share, the invariant of
the machine, and the states a session can reach. -/
namespace Sys2Proof.Machine

/-! ## Premises on a state and operands -/

/-- The condition's flags are written and its predicate holds (40_dispatch.md R130, R138). -/
abbrev CondPasses (c : Cond) (s : State) : Prop := evalCond c s = .ok true

/-- The condition's flags are written and its predicate does not hold. -/
abbrev CondFails (c : Cond) (s : State) : Prop := evalCond c s = .ok false

/-- Logical register `i` has been written (10_state.md R45). -/
abbrev Readable (i : Reg) (s : State) : Prop := isWritten (.reg (regSlot s.mode i)) s = true

/-- Every one of the 50 slots has been written: what P_RESET_REGS = ZERO starts with (R45). -/
abbrev AllWritten (s : State) : Prop := s.written = RegFile.fill true true

/-- The instruction the step at `s` runs is `i`. -/
abbrev Fetches (s : State) (i : Instr) : Prop := fetch s = .ok i

/-! ## What two states share -/

/-- Everything outside the register file and the processor state: memory, display fields, host inputs, the anomaly log,
the parameters. -/
structure SameMemorySide (s t : State) : Prop where
  mem : t.mem = s.mem
  bytes : ∀ a, readByteP a t = readByteP a s
  rawBytes : ∀ a, rawRead a .byte t = rawRead a .byte s
  ds : t.ds = s.ds
  vblank : t.vblank = s.vblank
  hblank : t.hblank = s.hblank
  scanline : t.scanline = s.scanline
  anomalies : t.anomalies = s.anomalies
  params : t.params = s.params

/-- Register slot `r` holds the same value under the same mark. -/
def SameReg (s t : State) (r : RegSlot) : Prop :=
  t.regs.getReg r = s.regs.getReg r ∧ t.written.getReg r = s.written.getReg r

/-- Flag `f` of mode `m` holds the same value under the same mark. -/
def SameFlag (s t : State) (m : Mode) (f : Flag) : Prop :=
  t.regs.getFlag m f = s.regs.getFlag m f ∧ t.written.getFlag m f = s.written.getFlag m f

/-- Everything outside the register file, the flags, the two modes and the model's own draw counter is the same, and so is
every register slot not in `rs`, and every flag of every mode. The counter is not spoken of when `.gpr15` is in `rs`. -/
structure OnlyRegsChange (rs : List RegSlot) (s t : State) : Prop where
  side : SameMemorySide s t
  regs : ∀ r, r ∉ rs → SameReg s t r
  flags : ∀ m f, SameFlag s t m f

/-- Nothing of the processor state changes: the two modes and the model's draw counter. -/
structure SameModes (s t : State) : Prop where
  mode : t.mode = s.mode
  isa : t.isa = s.isa
  draws : t.draws = s.draws

/-- What a multiply with result `res` leaves in the flags (42_multiply.md R163), but for the values of C and V under DRAW. -/
structure FlagRule (f : MulFields) (res : Word) (s t : State) : Prop where
  /-- With `S = 0` no flag changes. -/
  unset : f.s = false → ∀ m g, SameFlag s t m g
  /-- Every other mode's flags stay. -/
  others : ∀ m g, m ≠ s.mode → SameFlag s t m g
  /-- With `S = 1`, N and Z come from the result. -/
  negative : f.s = true → getFlag .n t = res.getLsbD 31
  zero : f.s = true → getFlag .z t = decide (res = 0)
  /-- All flags that are written carry their mark (10_state.md R45). -/
  marks : f.s = true → t.written.getFlag s.mode .n = true ∧ t.written.getFlag s.mode .z = true
  drawMarks : f.s = true → s.params.mulCV = .draw →
    t.written.getFlag s.mode .c = true ∧ t.written.getFlag s.mode .v = true
  /-- Under PRESERVE, C and V stay. -/
  preserve : s.params.mulCV = .preserve → SameFlag s t s.mode .c ∧ SameFlag s t s.mode .v

/-- What a multiply with destination `f.rd` and result `res` does (42_multiply.md R160, R161, R163, R164). -/
structure MultiplyEffect (f : MulFields) (res : Word) (s t : State) : Prop where
  /-- `x[Rd] <- res`, in the bank of the mode, with its mark. -/
  result : readReg f.rd t = res ∧ isWritten (.reg (regSlot s.mode f.rd)) t = true
  /-- `Rd = 15` is a redirect; else the counter advances. -/
  counter : pcOf t = if f.rd = 15 then res else pcOf s + 4
  /-- Every other register of every bank stays. -/
  regs : ∀ r, r ≠ regSlot s.mode f.rd → r ≠ .gpr15 → SameReg s t r
  flags : FlagRule f res s t
  side : SameMemorySide s t
  mode : t.mode = s.mode
  isa : t.isa = s.isa

/-- What a host access through a memory port leaves: everything but memory, the display fields and the anomaly log
(20_memory.md R77). -/
structure SameProcessor (s t : State) : Prop where
  regs : t.regs = s.regs
  written : t.written = s.written
  isa : t.isa = s.isa
  mode : t.mode = s.mode
  vblank : t.vblank = s.vblank
  hblank : t.hblank = s.hblank
  scanline : t.scanline = s.scanline
  draws : t.draws = s.draws
  params : t.params = s.params

/-- What an instruction in mode `m` can see of the register file and the processor state: `x[0]` to `x[15]` and the flags
of that mode's bank, with their marks, the two modes, and the model's draw counter. -/
structure SameView (m : Mode) (s t : State) : Prop where
  regs : ∀ i, SameReg s t (regSlot m i)
  flags : ∀ f, SameFlag s t m f
  mode : t.mode = s.mode
  isa : t.isa = s.isa
  draws : t.draws = s.draws

/-! ## Memory bytes -/

/-- Every byte of backing storage but the one at canonical address `a` is the same. -/
def OtherBytesSame (a : Word) (s t : State) : Prop := ∀ b, b ≠ a → rawRead b .byte t = rawRead b .byte s

/-- The bytes of the memory-mapped side-effect registers whose protected read or write is not plain backing storage
(20_memory.md R70-R76). -/
def IsSideEffectByte (l : Loc) : Prop :=
  l.region = .io ∧
    (l.offset ∈ [0x000, 0x001, 0x004, 0x006, 0x007, 0x204, 0x205] ∨ (0x008 ≤ l.offset ∧ l.offset ≤ 0x00F))

/-- The low `8 * n` bits of a word: what an access of that width carries (20_memory.md R80, R81). -/
def lowBytes (w : Width) (v : Word) : Word :=
  match w with
  | .byte => (v.setWidth 8).setWidth 32
  | .half => (v.setWidth 16).setWidth 32
  | .word => v

/-- Two accesses touch the same bytes of storage, in the same order (20_memory.md R60). -/
def SameBytes (p : Params) (w : Width) (a b : Word) : Prop :=
  ∀ k, k < w.bytes → ∀ l, resolve p (a + BitVec.ofNat 32 k) = .ok l →
    ∃ l', resolve p (b + BitVec.ofNat 32 k) = .ok l' ∧ l'.region = l.region ∧ l'.offset = l.offset

/-- No byte of an access is a side-effect byte. -/
def PlainBytes (p : Params) (w : Width) (a : Word) : Prop :=
  ∀ k, k < w.bytes → ∀ l, resolve p (a + BitVec.ofNat 32 k) = .ok l → ¬ IsSideEffectByte l

/-! ## The invariant -/

/-- `k` is the resolved address of a byte of some region (20_memory.md R60). -/
def IsBackingAddr (p : Params) (k : Nat) : Prop :=
  ∃ r o, o < regionSize p r ∧ k = regionBase r + o

/-- What holds at the start of every session and is kept by every step and every host action. -/
structure Inv (s : State) : Prop where
  /-- `P_ROM_SIZE` is 1 to 0x02000000 (00_scope.md R6). -/
  romSize : 1 ≤ s.params.romSize ∧ s.params.romSize ≤ maxRomSize
  /-- Memory is in canonical form. -/
  memCanonical : Memory.wf s.mem = true
  /-- Memory lists only bytes that exist (20_memory.md R60). -/
  memExists : ∀ cell ∈ s.mem, IsBackingAddr s.params cell.1
  /-- The cycle costs are entries of the two tables (10_state.md R39). -/
  waitN : s.ds.wsN ∈ [4, 3, 2, 8]
  waitS : s.ds.wsS ∈ [2, 1]
  /-- The counter is always written (10_state.md R44, R45). -/
  pcWritten : s.written.gpr15 = true
  /-- Every logged anomaly names the ROM byte its bus address resolves to (10_state.md R41, 20_memory.md R62). -/
  anomalies : ∀ x ∈ s.anomalies, resolve s.params x.bus = .ok ⟨x.bus, .rom, x.index⟩

/-! ## Reachable states -/

/-- The states of a session: its start, and what a step that ends in Continue or a host action between steps leads to
(60_exceptions.md R180, R190). -/
inductive Reachable : State → Prop
  | start {l : Launch} {s : State} (h : launch l = .ok s) : Reachable s
  | step {s t : State} (hs : Reachable s) (h : step s = .next t) : Reachable t
  | host {s t : State} (a : HostAction) (hs : Reachable s) (h : hostAct a s = .ok t) : Reachable t

/-- A safe run: `k` steps from `s`, every one ending in Continue (R180: no claim passes through another outcome). -/
def RunsTo (k : Nat) (s t : State) : Prop := Sys2Proof.core.run k s = .next t

end Sys2Proof.Machine
end

