-- ==== Sys2Proof/Certificates/Slice0/Obligations.lean ====
section
/-! DEFINITION. The statements for the provers, each from the numbered rules of spec/ that its docstring names. -/
section
open Sys2Proof Sys2Proof.Machine

/-! ## Encoding -/

/-- 30_encoding.md R100: the inclusive bit range, whatever the order of the bounds. -/
def Obligations.ExtractBits : Prop :=
  (∀ (w : Word) (h l : Fin 32), extractBits w h l = extractBits w l h) ∧
  (∀ w : Word, extractBits w 31 0 = w) ∧
  (∀ (w : Word) (h l : Fin 32), l ≤ h → ∀ j,
    (extractBits w h l).getLsbD j = (decide (j ≤ h.val - l.val) && w.getLsbD (l.val + j))) ∧
  extractBits 0b1011 3 0 = 0b1011 ∧ extractBits 0b1011 0 3 = 0b1011

/-- 30_encoding.md R104: the 15 predicates of R103 are pairwise disjoint, cover every word, and agree with the decision
list; the condition bits are never inspected. -/
def Obligations.WideClassesPartition : Prop :=
  (∀ w : Word, ∃ c, inWideClass w c = true) ∧
  (∀ (w : Word) (c d : WideClass), inWideClass w c = true → inWideClass w d = true → c = d) ∧
  (∀ (w : Word) (c : WideClass), inWideClass w c = true ↔ classifyWide w = c) ∧
  (∀ w v : Word, w.extractLsb' 0 28 = v.extractLsb' 0 28 → ∀ c, inWideClass w c = inWideClass v c)

/-- 30_encoding.md R101, R107, R119: a Wide word decodes to an instruction of its class, with its condition, whose row of
the opcode table it matches; the alias rows are skipped. -/
def Obligations.DecodedWideRow : Prop :=
  ∀ w : Word,
    (decodeWide w).cls = .wide (classifyWide w) ∧ (decodeWide w).cond = some (condOf w) ∧
    (condOf w).code = w.extractLsb' 28 4 ∧
    w &&& (decodeWide w).row.mask = (decodeWide w).row.pattern ∧ (decodeWide w).core = decodeWide w ∧
    (∀ c ps rd, decodeWide w ≠ .mrs c ps rd) ∧ (∀ c pd m rm, decodeWide w ≠ .msrReg c pd m rm) ∧
    (∀ c pd m imm, decodeWide w ≠ .msrImm c pd m imm)

/-- 30_encoding.md R114: the halfwords that match no row of R113 are the class NarrowUndefined, and they are those with one
of these 20 high bytes, so 5,120 in all. -/
def Obligations.NarrowUndefinedHighBytes : Prop :=
  let hs : List Byte := [0xB1, 0xB2, 0xB3, 0xB6, 0xB7, 0xB8, 0xB9, 0xBA, 0xBB, 0xBE, 0xBF, 0xDE,
    0xE8, 0xE9, 0xEA, 0xEB, 0xEC, 0xED, 0xEE, 0xEF]
  (∀ h : Half, (decodeNarrow h).cls = .narrow .undefined ↔ h.extractLsb' 8 8 ∈ hs) ∧
  (∀ h : Half, (decodeNarrow h).cls = .narrow .undefined ↔
    ∀ i : Instr, i.isa = .narrow → i.cls ≠ .narrow .undefined → h.setWidth 32 &&& i.row.mask ≠ i.row.pattern) ∧
  hs.Nodup ∧ 256 * hs.length = 5120

/-- 30_encoding.md R113, R119: every halfword matches exactly one Narrow row, that of the instruction it decodes to. The
mask of T_PUSH and T_POP is the model's reading of the table (log entry 11). -/
def Obligations.NarrowRowsPartition : Prop :=
  ∀ (h : Half) (i : Instr), i.isa = .narrow →
    (h.setWidth 32 &&& i.row.mask = i.row.pattern ↔ i.row = (decodeNarrow h).row)

/-- 30_encoding.md R106, R113, R119: decoding the word, or the bytes, of a well-formed instruction gives it back, with every
field at every value. An alias row's term comes back as the DataProcessing instruction its word is. -/
def Obligations.DecodeOfEncode : Prop :=
  ∀ i : Instr, i.WellFormed →
    decodeFetched i.isa (encode i) = i.core ∧
    ∀ rest, decode i.isa (leBytes (encode i) i.isa.bytes ++ rest) = .ok (i.core, rest)

/-- 30_encoding.md R104, R106, R113: no bit of a word is dropped: the instruction it decodes to is well-formed and encodes
to that word. -/
def Obligations.EncodeOfDecode : Prop :=
  (∀ w : Word, (decodeWide w).WellFormed ∧ (decodeWide w).isa = .wide ∧ encode (decodeWide w) = w) ∧
  (∀ h : Half, (decodeNarrow h).WellFormed ∧ (decodeNarrow h).isa = .narrow ∧ encode (decodeNarrow h) = h.setWidth 32)

/-- 30_encoding.md R105, R106, R108, R113: a few words written out from the spec's encodings. -/
def Obligations.SpecWordsDecode : Prop :=
  decodeWide 0xEA000005 = .b .al 5 ∧
  decodeWide 0xEB000003 = .bl .al 3 ∧
  decodeWide 0xE12FFF10 = .bx .al 0 ∧
  decodeWide 0x012FFF1F = .bxR15 .eq ∧
  decodeWide 0xE0020190 = .mul .al { s := false, rd := 2, rn := 0, rs := 1, rm := 0 } ∧
  decodeWide 0xE0232190 = .mla .al { s := false, rd := 3, rn := 2, rs := 1, rm := 0 } ∧
  decodeWide 0x00000000 = .and .eq { i := false, s := false, rn := 0, rd := 0, operand2 := 0 } ∧
  decodeWide 0xEF000000 = .swi .al 0 ∧
  decodeNarrow 0x4770 = .tBx 0x70 ∧
  decodeNarrow 0xBC00 = .tPop 0

/-! ## Conditions -/

/-- 40_dispatch.md R130: the table of the 16 codes, and the flags it is evaluated against. -/
def Obligations.ConditionTable : Prop :=
  (∀ (w : Word) (f : FlagSet Bool), conditionMet (condOf w) f =
    [f.z, !f.z, f.c, !f.c, f.n, !f.n, f.v, !f.v, f.c && !f.z, !f.c || f.z, f.n == f.v, f.n != f.v,
      !f.z && (f.n == f.v), f.z || (f.n != f.v), true, false].getD (w.toNat / 2 ^ 28) false) ∧
  (∀ (c : Cond) (s : State) (b : Bool), evalCond c s = .ok b → b = conditionMet c (s.regs.bank.get s.mode).flags)

/-- 10_state.md R45: the condition evaluator reads the flags its predicate depends on and no other, and reports the first
unwritten one in the order N, Z, C, V. -/
def Obligations.ConditionReadsFlags : Prop :=
  (∀ (c : Cond) (f : Flag), f ∈ flagsRead c ↔
    ∃ (fs : FlagSet Bool) (b : Bool), conditionMet c (fs.set f b) ≠ conditionMet c fs) ∧
  (∀ (c : Cond) (s : State), evalCond c s =
    match [Flag.n, Flag.z, Flag.c, Flag.v].find? (fun f => decide (f ∈ flagsRead c) && !isWritten (.flag s.mode f) s) with
    | some f => .error (.unwrittenRead (.flag s.mode f))
    | none => .ok (conditionMet c (activeFlags s)))

/-- 40_dispatch.md R135: a failed condition advances the counter and writes nothing else, for every Wide instruction. -/
def Obligations.ConditionFailedAdvances : Prop :=
  ∀ (i : Instr) (c : Cond) (s : State), i.cond = some c → CondFails c s →
    ∃ t, exec i s = .next t ∧ pcOf t = pcOf s + 4 ∧ t.written.gpr15 = true ∧ OnlyRegsChange [.gpr15] s t ∧ SameModes s t

/-! ## Branches -/

/-- 30_encoding.md R108: the offset field is a signed number of words. -/
def Obligations.BranchOffsetScaled : Prop :=
  (∀ off : BitVec 24, (branchOffset off).toInt = 4 * off.toInt ∧
    -(2 ^ 25) ≤ (branchOffset off).toInt ∧ (branchOffset off).toInt ≤ 2 ^ 25 - 4) ∧
  (branchOffset 0x000005).toInt = 20 ∧ (branchOffset 0xFFFFF6).toInt = -40

/-- 41_branch.md R150: B. -/
def Obligations.BranchJumps : Prop :=
  (∀ w : Word, w &&& 0x0F000000 = 0x0A000000 → decodeWide w = .b (condOf w) (w.extractLsb' 0 24)) ∧
  (∀ (c : Cond) (off : BitVec 24) (s : State), CondPasses c s →
    ∃ t, exec (.b c off) s = .next t ∧ pcOf t = pcOf s + (off.signExtend 32 <<< 2) ∧ t.written.gpr15 = true ∧
      OnlyRegsChange [.gpr15] s t ∧ SameModes s t)

/-- 41_branch.md R151: BL. -/
def Obligations.BranchLinks : Prop :=
  (∀ w : Word, w &&& 0x0F000000 = 0x0B000000 → decodeWide w = .bl (condOf w) (w.extractLsb' 0 24)) ∧
  (∀ (c : Cond) (off : BitVec 24) (s : State), CondPasses c s →
    ∃ t, exec (.bl c off) s = .next t ∧ pcOf t = pcOf s + (off.signExtend 32 <<< 2) ∧
      (t.regs.bank.get s.mode).r14 = pcOf s + 4 ∧ (t.written.bank.get s.mode).r14 = true ∧ t.written.gpr15 = true ∧
      OnlyRegsChange [.gpr15, .r14 s.mode] s t ∧ SameModes s t)

/-- 41_branch.md R152: BX with a valid register. -/
def Obligations.BranchExchanges : Prop :=
  (∀ w : Word, w &&& 0x0FFFFFF0 = 0x012FFF10 → w.extractLsb' 0 4 ≠ 15 →
    decodeWide w = .bx (condOf w) (w.extractLsb' 0 4)) ∧
  (∀ (c : Cond) (rm : Reg) (s : State), CondPasses c s → rm ≠ 15 → Readable rm s →
    ∃ t, exec (.bx c rm) s = .next t ∧ pcOf t = readReg rm s ∧ t.written.gpr15 = true ∧
      t.isa = (if (readReg rm s).getLsbD 0 then .narrow else .wide) ∧ t.mode = s.mode ∧ t.draws = s.draws ∧
      OnlyRegsChange [.gpr15] s t)

/-- 41_branch.md R153: BX naming register 15. -/
def Obligations.InvalidExchange : Prop :=
  (∀ w : Word, w &&& 0x0FFFFFFF = 0x012FFF1F → decodeWide w = .bxR15 (condOf w)) ∧
  (∀ (c : Cond) (s : State), CondPasses c s → ∃ t, exec (.bxR15 c) s = .next t ∧
    t = { s with mode := .undefined } ∧ readReg 13 t = s.regs.bank.undefined.r13 ∧
    readReg 14 t = s.regs.bank.undefined.r14 ∧ activeFlags t = s.regs.bank.undefined.flags ∧
    (s.mode = .undefined → t = s)) ∧
  (∀ (c : Cond) (s : State), CondFails c s →
    ∃ t, exec (.bxR15 c) s = .next t ∧ pcOf t = pcOf s + 4 ∧ t.mode = s.mode)

/-- 70_reset_and_hazards.md R206: an invalid BX is fetched again, and again while its condition passes against the Undefined
bank; an unconditional one never ends. -/
def Obligations.InvalidExchangeHangs : Prop :=
  (∀ (c : Cond) (s : State), Fetches s (.bxR15 c) → CondPasses c s →
    step s = .next { s with mode := .undefined } ∧
    (CondPasses c { s with mode := .undefined } → ∀ k, 1 ≤ k → RunsTo k s { s with mode := .undefined }) ∧
    (CondFails c { s with mode := .undefined } →
      ∃ t, step { s with mode := .undefined } = .next t ∧ pcOf t = pcOf s + 4) ∧
    (∀ e, evalCond c { s with mode := .undefined } = .error e → step { s with mode := .undefined } = .fault e)) ∧
  (∀ s : State, Fetches s (.bxR15 .al) → ∀ k, 1 ≤ k → RunsTo k s { s with mode := .undefined })

/-- 41_branch.md R155: BL, then BX r14 in a state that has kept the mode and the link, comes back to the word after the BL,
in Wide mode when the BL stood at an even address. -/
def Obligations.CallReturns : Prop :=
  ∀ (c d : Cond) (off : BitVec 24) (s t u : State), CondPasses c s → exec (.bl c off) s = .next t →
    u.mode = t.mode → SameReg t u (.r14 t.mode) → CondPasses d u →
    ∃ v, exec (.bx d 14) u = .next v ∧ pcOf v = pcOf s + 4 ∧ ((pcOf s).getLsbD 0 = false → v.isa = .wide)

/-! ## Multiply -/

/-- 42_multiply.md R160: MUL, with its frame and, through `FlagRule`, its flags. -/
def Obligations.MulExecutes : Prop :=
  (∀ w : Word, w &&& 0x0FE000F0 = 0x00000090 → decodeWide w = .mul (condOf w)
    { s := w.getLsbD 20, rd := w.extractLsb' 16 4, rn := w.extractLsb' 12 4, rs := w.extractLsb' 8 4,
      rm := w.extractLsb' 0 4 }) ∧
  (∀ (c : Cond) (f : MulFields) (s : State), CondPasses c s → Readable f.rm s → Readable f.rs s →
    ∃ t, exec (.mul c f) s = .next t ∧ MultiplyEffect f (readReg f.rm s * readReg f.rs s) s t) ∧
  (∀ (c : Cond) (f : MulFields) (x : Reg) (s : State), exec (.mul c { f with rn := x }) s = exec (.mul c f) s)

/-- 42_multiply.md R161: MLA. -/
def Obligations.MlaExecutes : Prop :=
  (∀ w : Word, w &&& 0x0FE000F0 = 0x00200090 → decodeWide w = .mla (condOf w)
    { s := w.getLsbD 20, rd := w.extractLsb' 16 4, rn := w.extractLsb' 12 4, rs := w.extractLsb' 8 4,
      rm := w.extractLsb' 0 4 }) ∧
  (∀ (c : Cond) (f : MulFields) (s : State), CondPasses c s → Readable f.rm s → Readable f.rs s → Readable f.rn s →
    ∃ t, exec (.mla c f) s = .next t ∧
      MultiplyEffect f (readReg f.rm s * readReg f.rs s + readReg f.rn s) s t)

/-- 42_multiply.md R163: the flags after a multiply whose result is in `x[Rd]`. Under DRAW, C and V are written and nothing is
said of their values. -/
def Obligations.MultiplyFlagRule : Prop :=
  ∀ (i : Instr) (c : Cond) (f : MulFields) (s : State), i = .mul c f ∨ i = .mla c f → CondPasses c s →
    Readable f.rm s → Readable f.rs s → (i = .mla c f → Readable f.rn s) →
    ∃ t, exec i s = .next t ∧ FlagRule f (readReg f.rd t) s t

/-- 00_scope.md R8, 42_multiply.md R163, log entry 6: where the arbitrary C and V come from in this model. It holds for every
function `Config.freeFlag`. -/
def Obligations.DrawnFlags : Prop :=
  ∀ (i : Instr) (c : Cond) (f : MulFields) (s t : State), i = .mul c f ∨ i = .mla c f → CondPasses c s →
    exec i s = .next t →
    (f.s = true → s.params.mulCV = .draw → getFlag .c t = Config.freeFlag s.draws ∧
      getFlag .v t = Config.freeFlag (s.draws + 1) ∧ t.draws = s.draws + 2) ∧
    (f.s = false ∨ s.params.mulCV = .preserve → t.draws = s.draws)

/-- 42_multiply.md R162, R164: the arithmetic is modulo 2^32 and has no signedness; operands are read before the result is
written; register 15 reads the address of the instruction, and as a destination it is a redirect. -/
def Obligations.MultiplyArithmetic : Prop :=
  (∀ (c : Cond) (f : MulFields) (s : State), CondPasses c s → Readable f.rm s → Readable f.rs s →
    ∃ t, exec (.mul c f) s = .next t ∧
      readReg f.rd t = BitVec.ofNat 32 ((readReg f.rm s).toNat * (readReg f.rs s).toNat) ∧
      readReg f.rd t = BitVec.ofInt 32 ((readReg f.rm s).toInt * (readReg f.rs s).toInt) ∧
      (readReg f.rm s = 0 ∨ readReg f.rs s = 0 → readReg f.rd t = 0) ∧
      pcOf t = (if f.rd = 15 then readReg f.rd t else pcOf s + 4) ∧
      (f.rd = 13 → (t.regs.bank.get s.mode).r13 = readReg f.rd t) ∧
      (f.rd = 14 → (t.regs.bank.get s.mode).r14 = readReg f.rd t)) ∧
  (∀ (c : Cond) (f : MulFields) (s : State), CondPasses c s → Readable f.rm s → Readable f.rs s → Readable f.rn s →
    ∃ t, exec (.mla c f) s = .next t ∧
      readReg f.rd t =
        BitVec.ofNat 32 ((readReg f.rm s).toNat * (readReg f.rs s).toNat + (readReg f.rn s).toNat) ∧
      readReg f.rd t =
        BitVec.ofInt 32 ((readReg f.rm s).toInt * (readReg f.rs s).toInt + (readReg f.rn s).toInt) ∧
      (readReg f.rm s = 0 ∨ readReg f.rs s = 0 → readReg f.rd t = readReg f.rn s) ∧
      pcOf t = (if f.rd = 15 then readReg f.rd t else pcOf s + 4) ∧
      (f.rd = 13 → (t.regs.bank.get s.mode).r13 = readReg f.rd t) ∧
      (f.rd = 14 → (t.regs.bank.get s.mode).r14 = readReg f.rd t)) ∧
  (∀ s : State, readReg 15 s = pcOf s ∧ readReg 13 s = (s.regs.bank.get s.mode).r13 ∧
    readReg 14 s = (s.regs.bank.get s.mode).r14)

/-- 10_state.md R45: an unwritten operand ends the step; the slot reported is the first in the order of the reads. -/
def Obligations.UnwrittenOperandFaults : Prop :=
  (∀ (c : Cond) (rm : Reg) (s : State), CondPasses c s → rm ≠ 15 → ¬ Readable rm s →
    exec (.bx c rm) s = .fault (.unwrittenRead (.reg (regSlot s.mode rm)))) ∧
  (∀ (i : Instr) (c : Cond) (f : MulFields) (s : State), i = .mul c f ∨ i = .mla c f → CondPasses c s →
    (¬ Readable f.rm s → exec i s = .fault (.unwrittenRead (.reg (regSlot s.mode f.rm)))) ∧
    (Readable f.rm s → ¬ Readable f.rs s → exec i s = .fault (.unwrittenRead (.reg (regSlot s.mode f.rs)))) ∧
    (i = .mla c f → Readable f.rm s → Readable f.rs s → ¬ Readable f.rn s →
      exec i s = .fault (.unwrittenRead (.reg (regSlot s.mode f.rn)))))

/-! ## Classes with no handler -/

/-- 43_unimplemented.md R173: an instruction of a Wide class with no handler is Unimplemented when its condition passes and
only advances the counter when it fails. -/
def Obligations.WideWithoutHandler : Prop :=
  ∀ (i : Instr) (cls : WideClass) (c : Cond) (s : State), i.cls = .wide cls →
    cls ∉ [WideClass.branch, WideClass.branchExchange, WideClass.multiply] → i.cond = some c →
    (CondPasses c s → exec i s = .refused (.unimplemented (.wide cls) (encode i) (pcOf s))) ∧
    (CondFails c s → ∃ t, exec i s = .next t ∧ pcOf t = pcOf s + 4 ∧ OnlyRegsChange [.gpr15] s t ∧ SameModes s t) ∧
    (∀ r, exec i s = .refused r → CondPasses c s)

/-- 43_unimplemented.md R170: the outcome of a step whose word has no handler names the class, the word and the counter. -/
def Obligations.UnimplementedStub : Prop :=
  (∀ (s : State) (w : Word) (cls : WideClass), s.isa = .wide → memRead (pcOf s) .word s = .ok w →
    inWideClass w cls = true → cls ∉ [WideClass.branch, WideClass.branchExchange, WideClass.multiply] →
    CondPasses (condOf w) s → step s = .refused (.unimplemented (.wide cls) w (pcOf s))) ∧
  (∀ (s : State) (w : Word), s.isa = .narrow → memRead (pcOf s) .half s = .ok w →
    step s = .refused (.unimplemented (decodeNarrow (w.setWidth 16)).cls w (pcOf s)))

/-- 40_dispatch.md R137, 43_unimplemented.md R177: every Narrow instruction is Unimplemented in every state. -/
def Obligations.NarrowStops : Prop :=
  ∀ (i : Instr) (s : State), i.isa = .narrow → exec i s = .refused (.unimplemented i.cls (encode i) (pcOf s))

/-- 70_reset_and_hazards.md R207: after a BX to an odd value the block is in Narrow mode, every Narrow step ends in
Unimplemented, and only the host's port leads back to Wide. -/
def Obligations.NarrowLockIn : Prop :=
  (∀ (c : Cond) (rm : Reg) (s : State), CondPasses c s → rm ≠ 15 → Readable rm s →
    (readReg rm s).getLsbD 0 = true → ∃ t, exec (.bx c rm) s = .next t ∧ t.isa = .narrow) ∧
  (∀ (s : State) (w : Word), s.isa = .narrow → memRead (pcOf s) .half s = .ok w →
    ∃ f, step s = .refused (.unimplemented (.narrow f) w (pcOf s))) ∧
  (∀ s t : State, s.isa = .narrow → step s ≠ .next t) ∧
  (∀ (k : Nat) (s t : State), s.isa = .narrow → RunsTo k s t → k = 0) ∧
  (∀ (a : HostAction) (s t : State), s.isa = .narrow → hostAct a s = .ok t → t.isa = .wide →
    a = .switchInstrSet .wide) ∧
  (∀ s : State, hostAct (.switchInstrSet .wide) s = .ok { s with isa := .wide })

/-! ## The register file and the processor state -/

/-- 10_state.md R22, R23: the ports of the register file. A host read answers "unwritten" exactly on a clear mark (R45). -/
def Obligations.RegisterPorts : Prop :=
  (∀ (i : Reg) (s : State), hostReadReg i s = none ↔ isWritten (.reg (regSlot s.mode i)) s = false) ∧
  (∀ (s : State) (i : Fin 13), readReg (BitVec.ofNat 4 i.val) s = s.regs.gpr[i]) ∧
  (∀ s : State, readReg 13 s = (s.regs.bank.get s.mode).r13 ∧ readReg 14 s = (s.regs.bank.get s.mode).r14 ∧
    readReg 15 s = s.regs.gpr15 ∧ pcOf s = s.regs.gpr15) ∧
  (∀ (i : Reg) (v : Word) (s : State), hostReadReg i s = some v → v = readReg i s) ∧
  (∀ (i : Reg) (v : Word) (s : State), ∃ t, hostAct (.writeReg i v) s = .ok t ∧ readReg i t = v ∧
    hostReadReg i t = some v ∧ OnlyRegsChange [regSlot s.mode i] s t ∧ SameModes s t ∧ (i = 15 → pcOf t = v))

/-- 10_state.md R33, R34, R35: the mode ports. -/
def Obligations.ProcessorStatePorts : Prop :=
  (∀ (m : Mode) (s : State), ∃ t, hostAct (.switchMode m) s = .ok t ∧ t = { s with mode := m } ∧
    readReg 13 t = (s.regs.bank.get m).r13 ∧ readReg 14 t = (s.regs.bank.get m).r14 ∧
    activeFlags t = (s.regs.bank.get m).flags) ∧
  (∀ (e : BitVec 5) (s : State), hostAct (.switchModeBits e) s = .ok { s with mode := modeOfBits e }) ∧
  modeOfBits 0b10000 = .user ∧ modeOfBits 0b10001 = .fastInterrupt ∧ modeOfBits 0b10010 = .interrupt ∧
  modeOfBits 0b10011 = .supervisor ∧ modeOfBits 0b10111 = .abort ∧ modeOfBits 0b11011 = .undefined ∧
  (∀ e : BitVec 5, e ∉ [0b10000#5, 0b10001#5, 0b10010#5, 0b10011#5, 0b10111#5] → modeOfBits e = .undefined) ∧
  (∀ (i : InstrSet) (s : State), hostAct (.switchInstrSet i) s = .ok { s with isa := i })

/-- 10_state.md R28, R29, R45: the flag ports and the flag word, and when a read answers "unwritten". That the word is
unwritten when one of its flags is, and that writing the word marks all four, so that it then reads in every state, is the
model's reading (log entry 23, DEDUCED). -/
def Obligations.FlagPorts : Prop :=
  (∀ (f : Flag) (s : State), hostGetFlag f s = none ↔ isWritten (.flag s.mode f) s = false) ∧
  (∀ s : State, hostFlagWord s = none ↔ ∃ f, isWritten (.flag s.mode f) s = false) ∧
  (∀ (f : Flag) (b : Bool) (s : State), hostGetFlag f s = some b → b = (s.regs.bank.get s.mode).flags.get f) ∧
  (∀ (w : Word) (s : State), hostFlagWord s = some w → ∀ j, w.getLsbD j =
    if j = 31 then getFlag .n s else if j = 30 then getFlag .z s else if j = 29 then getFlag .c s
    else if j = 28 then getFlag .v s else false) ∧
  (∀ (f : Flag) (b : Bool) (s : State), ∃ t, hostAct (.setFlag f b) s = .ok t ∧ getFlag f t = b ∧
    hostGetFlag f t = some b ∧ (∀ m g, m ≠ s.mode ∨ g ≠ f → SameFlag s t m g) ∧ (∀ r, SameReg s t r) ∧
    SameMemorySide s t ∧ SameModes s t) ∧
  (∀ (w : Word) (s : State), ∃ t, hostAct (.setFlagWord w) s = .ok t ∧ getFlag .n t = w.getLsbD 31 ∧
    getFlag .z t = w.getLsbD 30 ∧ getFlag .c t = w.getLsbD 29 ∧ getFlag .v t = w.getLsbD 28 ∧
    hostFlagWord t = some (w &&& 0xF0000000) ∧ (∀ m g, m ≠ s.mode → SameFlag s t m g) ∧ (∀ r, SameReg s t r) ∧
    SameMemorySide s t ∧ SameModes s t)

/-! ## The address decoder -/

/-- 20_memory.md R54: the RAM-like regions are mirrored modulo their size, which is where repeated subtraction of the size
stops. -/
def Obligations.RamMirroring : Prop :=
  ∀ (p : Params) (r : Region) (a : Word), r ∈ [Region.wram1, Region.wram2, Region.palette, Region.oam] →
    regionBase r ≤ a.toNat → a.toNat < regionBase r + 0x01000000 →
    ∃ l, resolve p a = .ok l ∧ l.region = r ∧ l.offset = (a.toNat - regionBase r) % regionSize p r ∧
      l.offset < regionSize p r ∧ ∃ k, a.toNat = regionBase r + l.offset + k * regionSize p r

/-- 20_memory.md R55: the video-RAM fold under both settings. -/
def Obligations.VramMirroring : Prop :=
  (∀ (p : Params) (a : Word), 0x06000000 ≤ a.toNat → a.toNat < 0x07000000 →
    ∃ l, resolve p a = .ok l ∧ l.region = .vram ∧ l.offset = vramFold p (a.toNat - 0x06000000)) ∧
  (∀ (p : Params) (o : Nat), vramFold p o < 0x18000) ∧
  (∀ (p : Params) (o : Nat), p.vramMirror = .gba128 →
    (o % 0x20000 < 0x18000 → vramFold p o = o % 0x20000) ∧
    (0x18000 ≤ o % 0x20000 → vramFold p o = o % 0x20000 - 0x8000) ∧ vramFold p (o + 0x20000) = vramFold p o) ∧
  (∀ (p : Params) (o : Nat), p.vramMirror = .mod96 →
    vramFold p o = o % 0x18000 ∧ vramFold p (o + 0x18000) = vramFold p o)

/-- 20_memory.md R56, R58 (and the unmapped windows of R52, R57): the ROM's three aliases, the I/O block, the boot code, and
everything that is out of range. -/
def Obligations.RomAliasesAndHoles : Prop :=
  (∀ (p : Params) (base : Nat) (a : Word), base ∈ [0x08000000, 0x0A000000, 0x0C000000] → base ≤ a.toNat →
    a.toNat < base + 0x02000000 →
    resolve p a = if a.toNat - base < p.romSize then .ok ⟨a, .rom, a.toNat - base⟩ else .error (.outOfRange a)) ∧
  (∀ (p : Params) (a : Word), 0x04000000 ≤ a.toNat → a.toNat < 0x05000000 →
    resolve p a = if a.toNat < 0x04000400 then .ok ⟨a, .io, a.toNat - 0x04000000⟩ else .error (.outOfRange a)) ∧
  (∀ (p : Params) (a : Word), a.toNat < 0x02000000 →
    resolve p a = if a.toNat < 0x4000 then .ok ⟨a, .boot, a.toNat⟩ else .error (.outOfRange a)) ∧
  (∀ (p : Params) (a : Word), 0x0E000000 ≤ a.toNat → resolve p a = .error (.outOfRange a))

/-- 20_memory.md R60: an address that does not fault names exactly one byte of storage, and two addresses alias exactly when
they resolve to the same pair. -/
def Obligations.ResolvesToOneByte : Prop :=
  (∀ (p : Params) (a : Word) (l : Loc), resolve p a = .ok l →
    l.bus = a ∧ l.offset < regionSize p l.region ∧ IsBackingAddr p (resolvedAddr l)) ∧
  (∀ (p : Params) (a b : Word) (l k : Loc), resolve p a = .ok l → resolve p b = .ok k →
    (resolvedAddr l = resolvedAddr k ↔ l.region = k.region ∧ l.offset = k.offset))

/-- 20_memory.md R83: the canonical ranges, which are exactly the resolved addresses. -/
def Obligations.CanonicalAreResolved : Prop :=
  (∀ (p : Params) (a : Word), (∃ l, rawResolve p a = .ok l) ↔
    a.toNat < 0x00004000 ∨ (0x02000000 ≤ a.toNat ∧ a.toNat < 0x02040000) ∨
    (0x03000000 ≤ a.toNat ∧ a.toNat < 0x03008000) ∨ (0x04000000 ≤ a.toNat ∧ a.toNat < 0x04000400) ∨
    (0x05000000 ≤ a.toNat ∧ a.toNat < 0x05000400) ∨ (0x06000000 ≤ a.toNat ∧ a.toNat < 0x06018000) ∨
    (0x07000000 ≤ a.toNat ∧ a.toNat < 0x07000400) ∨ (0x08000000 ≤ a.toNat ∧ a.toNat < 0x08000000 + p.romSize)) ∧
  (∀ (p : Params) (a : Word) (l : Loc), rawResolve p a = .ok l → resolvedAddr l = a.toNat) ∧
  (∀ (p : Params) (a : Word), p.romSize ≤ maxRomSize →
    ((∃ l, rawResolve p a = .ok l) ↔ ∃ b l, resolve p b = .ok l ∧ resolvedAddr l = a.toNat))

/-! ## The load/store controller -/

/-- 20_memory.md R59, R81, R86, R97: a protected access ends at its first byte that does not resolve, whatever its width,
and a write that does so has no successor state. -/
def Obligations.AccessFaultsAtFirstBadByte : Prop :=
  (∀ (a v : Word) (w : Width) (s : State) (k : Nat), k < w.bytes →
    (∀ j, j < k → ∃ l, resolve s.params (a + BitVec.ofNat 32 j) = .ok l) →
    (¬ ∃ l, resolve s.params (a + BitVec.ofNat 32 k) = .ok l) →
    memRead a w s = .error (.outOfRange (a + BitVec.ofNat 32 k)) ∧
    memWrite a w v s = .error (.outOfRange (a + BitVec.ofNat 32 k)))

/-- 20_memory.md R80, R81: a protected read is the little-endian composition of protected byte reads, and a protected write
whose bytes all resolve is the chain of protected byte writes in ascending order, each with its side effect, which is what
the host's port does; either ends at the first byte that faults. -/
def Obligations.AccessComposesBytes : Prop :=
  (∀ (a v : Word) (w : Width) (s : State), memRead a w s = .ok v ↔
    (∀ k, k < w.bytes → readByteP (a + BitVec.ofNat 32 k) s = .ok ((v >>> (8 * k)).setWidth 8)) ∧
    v = lowBytes w v) ∧
  (∀ (a v : Word) (w : Width) (s : State), (∀ k, k < w.bytes → ∃ l, resolve s.params (a + BitVec.ofNat 32 k) = .ok l) →
    (∃ t, memWrite a w v s = .ok t) ∧ memWrite a w v s = (List.range w.bytes).foldlM
      (fun t k => writeByteP (a + BitVec.ofNat 32 k) ((v >>> (8 * k)).setWidth 8) t) s) ∧
  (∀ (a v : Word) (s : State), memWrite a .byte v s = writeByteP a (v.setWidth 8) s) ∧
  (∀ (a v : Word) (w : Width) (s : State), hostAct (.protectedWrite a w v) s = memWrite a w v s) ∧
  (∀ (a v : Word) (w : Width) (s : State) (k : Nat) (e : PortFault), k < w.bytes →
    (∀ j, j < k → ∃ b, readByteP (a + BitVec.ofNat 32 j) s = .ok b) →
    readByteP (a + BitVec.ofNat 32 k) s = .error e → memRead a w s = .error e ∧ memWrite a w v s = .error e)

/-- 20_memory.md R71, R72: what a protected byte write does to the display-control and the background-control registers. -/
def Obligations.DisplayRegisterWrites : Prop :=
  ∀ (b : Byte) (s : State), Memory.wf s.mem = true →
    (∃ t, writeByteP 0x04000000 b s = .ok t ∧
      t.ds = { s.ds with bgMode := b.extractLsb' 0 3, objMapping := b.getLsbD 6 } ∧
      rawRead 0x04000000 .byte t =
        (if s.params.displayBackingWrite then .ok (b.setWidth 32) else rawRead 0x04000000 .byte s) ∧
      OtherBytesSame 0x04000000 s t ∧ t.anomalies = s.anomalies ∧ SameProcessor s t) ∧
    (∃ t, writeByteP 0x04000001 b s = .ok t ∧
      t.ds = { s.ds with bgEnable := #v[b.getLsbD 0, b.getLsbD 1, b.getLsbD 2, b.getLsbD 3], objEnable := b.getLsbD 4 } ∧
      rawRead 0x04000001 .byte t =
        (if s.params.displayBackingWrite then .ok (b.setWidth 32) else rawRead 0x04000001 .byte s) ∧
      OtherBytesSame 0x04000001 s t ∧ t.anomalies = s.anomalies ∧ SameProcessor s t) ∧
    (∀ n : Fin 4,
      let lo : Word := 0x04000008 + BitVec.ofNat 32 (2 * n.val)
      let hi : Word := 0x04000009 + BitVec.ofNat 32 (2 * n.val)
      (∃ t, writeByteP lo b s = .ok t ∧
        t.ds = { s.ds with bg := t.ds.bg } ∧ (∀ k : Fin 4, k ≠ n → t.ds.bg[k] = s.ds.bg[k]) ∧
        t.ds.bg[n] = { s.ds.bg[n] with
          priority := b.extractLsb' 0 2, charBase := b.extractLsb' 2 2, mosaic := b.getLsbD 6, colorDepth := b.getLsbD 7 } ∧
        rawRead lo .byte t = (if s.params.displayBackingWrite then .ok (b.setWidth 32) else rawRead lo .byte s) ∧
        OtherBytesSame lo s t ∧ t.anomalies = s.anomalies ∧ SameProcessor s t) ∧
      (∃ t, writeByteP hi b s = .ok t ∧
        t.ds = { s.ds with bg := t.ds.bg } ∧ (∀ k : Fin 4, k ≠ n → t.ds.bg[k] = s.ds.bg[k]) ∧
        t.ds.bg[n] = { s.ds.bg[n] with screenBase := b.extractLsb' 0 5, size := b.extractLsb' 6 2 } ∧
        rawRead hi .byte t = (if s.params.displayBackingWrite then .ok (b.setWidth 32) else rawRead hi .byte s) ∧
        OtherBytesSame hi s t ∧ t.anomalies = s.anomalies ∧ SameProcessor s t))

/-- 20_memory.md R73: what a protected byte write does to the wait-state control register. -/
def Obligations.WaitcntWrites : Prop :=
  ∀ (b : Byte) (s : State), Memory.wf s.mem = true →
    (∃ t, writeByteP 0x04000204 b s = .ok t ∧
      t.ds = { s.ds with wsN := [4, 3, 2, 8].getD (b.extractLsb' 2 2).toNat 0, wsS := if b.getLsbD 4 then 1 else 2 } ∧
      readByteP 0x04000204 t = (if s.params.waitcntBackingWrite then .ok b else readByteP 0x04000204 s) ∧
      OtherBytesSame 0x04000204 s t ∧ t.anomalies = s.anomalies ∧ SameProcessor s t) ∧
    (∃ t, writeByteP 0x04000205 b s = .ok t ∧ t.ds = s.ds ∧
      readByteP 0x04000205 t = (if s.params.waitcntBackingWrite then .ok b else readByteP 0x04000205 s) ∧
      OtherBytesSame 0x04000205 s t ∧ t.anomalies = s.anomalies ∧ SameProcessor s t)

/-- 20_memory.md R74, R75: the status and scanline registers read the host's inputs. A write to any of their bytes is stored;
the protected path never shows it at the synthesized bytes 4, 6 and 7, and shows it at byte 5. The host drives the inputs
(10_state.md R38, 60_exceptions.md R190), and that changes nothing else. -/
def Obligations.LiveInputReads : Prop :=
  (∀ (vb hb : Bool) (sl : BitVec 16) (s : State), ∃ t, hostAct (.driveDisplay vb hb sl) s = .ok t ∧
    t.vblank = vb ∧ t.hblank = hb ∧ t.scanline = sl ∧ t.ds = s.ds ∧ t.mem = s.mem ∧ t.anomalies = s.anomalies ∧
    t.regs = s.regs ∧ t.written = s.written ∧ SameModes s t ∧ t.params = s.params ∧
    ∀ a, rawRead a .byte t = rawRead a .byte s ∧
      (a ∉ [0x04000004#32, 0x04000006#32, 0x04000007#32] → readByteP a t = readByteP a s)) ∧
  (∀ s : State,
    (∃ b : Byte, readByteP 0x04000004 s = .ok b ∧
      ∀ j, b.getLsbD j = if j = 0 then s.vblank else if j = 1 then s.hblank else false) ∧
    (∃ b : Byte, rawRead 0x04000005 .byte s = .ok (b.setWidth 32) ∧ readByteP 0x04000005 s = .ok b) ∧
    readByteP 0x04000006 s = .ok (s.scanline.extractLsb' 0 8) ∧
    readByteP 0x04000007 s = .ok (s.scanline.extractLsb' 8 8)) ∧
  (∀ (a : Word) (b : Byte) (s : State), Memory.wf s.mem = true →
    a ∈ [0x04000004#32, 0x04000005#32, 0x04000006#32, 0x04000007#32] →
    ∃ t, writeByteP a b s = .ok t ∧ rawRead a .byte t = .ok (b.setWidth 32) ∧
      readByteP a t = (if a = 0x04000005 then .ok b else readByteP a s) ∧ t.ds = s.ds ∧ SameProcessor s t)

/-- 20_memory.md R62: a protected byte write to cartridge ROM stores the byte and logs the anomaly. -/
def Obligations.RomWriteLogged : Prop :=
  ∀ (a : Word) (b : Byte) (i : Nat) (s : State), Memory.wf s.mem = true → resolve s.params a = .ok ⟨a, .rom, i⟩ →
    ∃ t, writeByteP a b s = .ok t ∧ readByteP a t = .ok b ∧
      rawRead (BitVec.ofNat 32 (0x08000000 + i)) .byte t = .ok (b.setWidth 32) ∧
      t.anomalies = s.anomalies ++ [{ bus := a, index := i, byte := b }] ∧ t.ds = s.ds ∧
      OtherBytesSame (BitVec.ofNat 32 (0x08000000 + i)) s t ∧ SameProcessor s t

/-- 20_memory.md R77: all that a protected byte write can change. Of the one background of a BGnCNT byte, the low byte leaves
the fields that R72 gives the high byte, and the high byte those it gives the low byte. -/
def Obligations.WriteIsolation : Prop :=
  ∀ (a : Word) (b : Byte) (s t : State), writeByteP a b s = .ok t →
    ∃ l, resolve s.params a = .ok l ∧ SameProcessor s t ∧
      OtherBytesSame (BitVec.ofNat 32 (resolvedAddr l)) s t ∧
      (l.region ≠ .rom → t.anomalies = s.anomalies) ∧
      (l.region ≠ .io → t.ds = s.ds) ∧
      (l.offset = 0x000 → { t.ds with bgMode := s.ds.bgMode, objMapping := s.ds.objMapping } = s.ds) ∧
      (l.offset = 0x001 → { t.ds with bgEnable := s.ds.bgEnable, objEnable := s.ds.objEnable } = s.ds) ∧
      (0x008 ≤ l.offset → l.offset ≤ 0x00F → { t.ds with bg := s.ds.bg } = s.ds ∧
        (∀ k : Fin 4, k.val ≠ (l.offset - 8) / 2 → t.ds.bg[k] = s.ds.bg[k]) ∧
        ∀ k : Fin 4, if l.offset % 2 = 0 then
            t.ds.bg[k].screenBase = s.ds.bg[k].screenBase ∧ t.ds.bg[k].size = s.ds.bg[k].size
          else t.ds.bg[k].priority = s.ds.bg[k].priority ∧ t.ds.bg[k].charBase = s.ds.bg[k].charBase ∧
            t.ds.bg[k].mosaic = s.ds.bg[k].mosaic ∧ t.ds.bg[k].colorDepth = s.ds.bg[k].colorDepth) ∧
      (l.offset = 0x204 → { t.ds with wsN := s.ds.wsN, wsS := s.ds.wsS } = s.ds) ∧
      (l.offset ∉ [0x000, 0x001, 0x204] → ¬ (0x008 ≤ l.offset ∧ l.offset ≤ 0x00F) → t.ds = s.ds)

/-- 20_memory.md R84: an unprotected write stores its bytes at canonical addresses, changes no display field, and logs the
bytes it puts in cartridge ROM; an access ends at its first byte that is not canonical. -/
def Obligations.RawWriteStoresBytes : Prop :=
  (∀ (a v : Word) (w : Width) (s t : State), Memory.wf s.mem = true → s.params.romSize ≤ maxRomSize →
    rawWrite a w v s = .ok t →
    rawRead a w t = .ok (lowBytes w v) ∧ t.ds = s.ds ∧ SameProcessor s t ∧
    (∀ b : Word, (∀ k, k < w.bytes → b ≠ a + BitVec.ofNat 32 k) → rawRead b .byte t = rawRead b .byte s) ∧
    t.anomalies = s.anomalies ++ (if 0x08000000 ≤ a.toNat then
      (List.range w.bytes).map fun k =>
        { bus := a + BitVec.ofNat 32 k, index := a.toNat + k - 0x08000000, byte := (v >>> (8 * k)).setWidth 8 }
      else [])) ∧
  (∀ (a v : Word) (w : Width) (s : State) (k : Nat), k < w.bytes →
    (∀ j, j < k → ∃ l, rawResolve s.params (a + BitVec.ofNat 32 j) = .ok l) →
    (¬ ∃ l, rawResolve s.params (a + BitVec.ofNat 32 k) = .ok l) →
    rawRead a w s = .error (.outOfRange (a + BitVec.ofNat 32 k)) ∧
    rawWrite a w v s = .error (.outOfRange (a + BitVec.ofNat 32 k))) ∧
  (∀ (a v : Word) (w : Width) (s : State), hostAct (.rawWrite a w v) s = rawWrite a w v s) ∧
  (∀ (a v : Word) (w : Width) (s : State), (∃ t, rawWrite a w v s = .ok t) ↔
    ∀ k, k < w.bytes → ∃ l, rawResolve s.params (a + BitVec.ofNat 32 k) = .ok l) ∧
  (∀ (a v : Word) (w : Width) (s : State), rawRead a w s = .ok v ↔
    (∀ k, k < w.bytes → ∃ l, rawResolve s.params (a + BitVec.ofNat 32 k) = .ok l ∧
      backingByte l s = (v >>> (8 * k)).setWidth 8) ∧ v = lowBytes w v)

/-- 20_memory.md R61: what a protected write stores, a protected read through any mirror of the same bytes gives back. -/
def Obligations.MirrorRoundTrip : Prop :=
  (∀ (p : Params) (r : Region) (a b : Word), r ∈ [Region.wram1, Region.wram2, Region.palette, Region.oam] →
    regionBase r ≤ a.toNat → a.toNat + regionSize p r < regionBase r + 0x01000000 →
    b.toNat = a.toNat + regionSize p r → SameBytes p .byte a b) ∧
  (∀ (p : Params) (a b : Word), 0x06000000 ≤ a.toNat → b.toNat < 0x07000000 →
    b.toNat = a.toNat + (if p.vramMirror = .gba128 then 0x20000 else 0x18000) → SameBytes p .byte a b) ∧
  (∀ (a b v : Word) (w : Width) (s t : State), Memory.wf s.mem = true → SameBytes s.params w a b →
    PlainBytes s.params w a → memWrite a w v s = .ok t → memRead b w t = .ok (lowBytes w v))

/-- 20_memory.md R85: a protected write and an unprotected read at the resolved address agree. -/
def Obligations.RawReadAgrees : Prop :=
  ∀ (a v : Word) (w : Width) (l : Loc) (s t : State), Memory.wf s.mem = true → PlainBytes s.params w a →
    resolve s.params a = .ok l →
    (∀ k, k < w.bytes → ∃ m, resolve s.params (a + BitVec.ofNat 32 k) = .ok m ∧ resolvedAddr m = resolvedAddr l + k) →
    memWrite a w v s = .ok t → rawRead (BitVec.ofNat 32 (resolvedAddr l)) w t = .ok (lowBytes w v)

/-! ## The step -/

/-- 40_dispatch.md R132: the fetch is a protected read at the unmodified counter, and its first bad byte is the fault. -/
def Obligations.FetchReadsAtCounter : Prop :=
  ∀ s : State,
    let n := match s.isa with | .wide => 4 | .narrow => 2
    (∀ bs : List Byte, bs.length = n →
      (∀ k, (hk : k < bs.length) → readByteP (pcOf s + BitVec.ofNat 32 k) s = .ok bs[k]) →
      fetch s = .ok (decodeFetched s.isa (leWord bs))) ∧
    (∀ k, k < n → (∀ j, j < k → ∃ b, readByteP (pcOf s + BitVec.ofNat 32 j) s = .ok b) →
      (¬ ∃ b, readByteP (pcOf s + BitVec.ofNat 32 k) s = .ok b) →
      step s = .fault (.fetchFault (pcOf s + BitVec.ofNat 32 k)))

/-- 40_dispatch.md R138: when the bytes at the counter decode to `i`, the step is `exec` of `i`, and nothing is added around
it: `exec` advances the counter itself. -/
def Obligations.StepRunsFetched : Prop :=
  ∀ (s : State) (bs : List Byte) (i : Instr), bs.length = s.isa.bytes →
    (∀ k, (hk : k < bs.length) → readByteP (pcOf s + BitVec.ofNat 32 k) s = .ok bs[k]) →
    decode s.isa bs = .ok (i, []) → i.WellFormed ∧ fetch s = .ok i ∧ step s = exec i s

/-- 40_dispatch.md R140: when each outcome arises. -/
def Obligations.StepOutcomes : Prop :=
  ∀ s : State,
    (∀ t, step s = .next t → ∃ i c, fetch s = .ok i ∧ i.cond = some c ∧
      (CondFails c s ∨ (CondPasses c s ∧
        i.cls ∈ [FormatClass.wide .branch, FormatClass.wide .branchExchange, FormatClass.wide .multiply]))) ∧
    (∀ r, step s = .refused r → ∃ i, fetch s = .ok i ∧ r = .unimplemented i.cls (encode i) (pcOf s) ∧
      (i.isa = .narrow ∨ ∃ c cls, i.cond = some c ∧ CondPasses c s ∧ i.cls = .wide cls ∧
        cls ∉ [WideClass.branch, WideClass.branchExchange, WideClass.multiply])) ∧
    (∀ e, step s = .fault e →
      (∃ k, k < s.isa.bytes ∧ e = .fetchFault (pcOf s + BitVec.ofNat 32 k) ∧
        ¬ ∃ b, readByteP (pcOf s + BitVec.ofNat 32 k) s = .ok b) ∨
      (∃ slot, e = .unwrittenRead slot ∧ isWritten slot s = false))

/-- 10_state.md R30, R31, R32, R36, 43_unimplemented.md R176: which instruction writes which state. No instruction writes
memory, a display field, the anomaly log or a host input. -/
def Obligations.StepWriters : Prop :=
  ∀ s t : State, step s = .next t →
    SameMemorySide s t ∧
    (∀ r, ¬ SameReg s t r → r = .gpr15 ∨ (r = .r14 s.mode ∧ ∃ c off, Fetches s (.bl c off)) ∨
      ∃ c f, (Fetches s (.mul c f) ∨ Fetches s (.mla c f)) ∧ r = regSlot s.mode f.rd) ∧
    (∀ m f, ¬ SameFlag s t m f → m = s.mode ∧
      ∃ c g, (Fetches s (.mul c g) ∨ Fetches s (.mla c g)) ∧ g.s = true) ∧
    (t.mode ≠ s.mode → t.mode = .undefined ∧ ∃ c, Fetches s (.bxR15 c)) ∧
    (t.isa ≠ s.isa → s.isa = .wide ∧ t.isa = .narrow ∧ ∃ c rm, Fetches s (.bx c rm))

/-- 10_state.md R21, R32, 60_exceptions.md R191: what the other modes' banks hold changes nothing of a step: two states that
differ only there step alike, in what the mode can see and in the outcome. -/
def Obligations.OtherBanksInvisible : Prop :=
  ∀ (s : State) (regs : RegFile Word Bool) (written : RegFile Bool Bool),
    SameView s.mode s { s with regs := regs, written := written } →
    (∀ t, step s = .next t → ∃ u, step { s with regs := regs, written := written } = .next u ∧ SameView s.mode t u ∧
      SameMemorySide t u) ∧
    (∀ e, step s = .fault e → step { s with regs := regs, written := written } = .fault e) ∧
    (∀ r, step s = .refused r → step { s with regs := regs, written := written } = .refused r)

/-- 10_state.md R45: a written mark is never cleared, by a step or by the host, and where every mark is set no step ends in
an unwritten read. `State.reset` is such a state (log entry 2, the model's choice of ZERO), and every step and every host
action leads from such a state to such a state, so no run from it ends so. -/
def Obligations.WrittenMarksStay : Prop :=
  (∀ (s t : State) (slot : Slot), step s = .next t → isWritten slot s = true → isWritten slot t = true) ∧
  (∀ (a : HostAction) (s t : State) (slot : Slot), hostAct a s = .ok t → isWritten slot s = true →
    isWritten slot t = true) ∧
  (∀ (s : State) (slot : Slot), AllWritten s → step s ≠ .fault (.unwrittenRead slot)) ∧
  (∀ s t : State, AllWritten s → step s = .next t → AllWritten t) ∧
  (∀ (a : HostAction) (s t : State), AllWritten s → hostAct a s = .ok t → AllWritten t) ∧
  AllWritten State.reset

/-- 20_memory.md R94: a host write at the counter is what the next step fetches, with no barrier. -/
def Obligations.HostWriteIsFetched : Prop :=
  ∀ (v : Word) (s t : State), Memory.wf s.mem = true → PlainBytes s.params .word (pcOf s) →
    hostAct (.protectedWrite (pcOf s) .word v) s = .ok t →
    fetch t = .ok (match s.isa with | .wide => decodeWide v | .narrow => decodeNarrow (v.setWidth 16))

/-! ## Reset and the invariant -/

/-- 10_state.md R44: every piece of state at the start of a session, for every choice of the OPEN parameters, and the
defaults of those that R44 names. -/
def Obligations.LaunchValues : Prop :=
  (∀ boot rom : List Byte, let l : Launch := { bootImage := boot, romImage := rom }
    l.resetPc = 0x00000000 ∧ l.resetMode = .supervisor ∧ l.resetRegs = .unwritten) ∧
  ∀ (l : Launch) (s : State), launch l = .ok s →
    pcOf s = l.resetPc ∧ s.mode = l.resetMode ∧ s.isa = .wide ∧ s.written.gpr15 = true ∧
    (l.resetRegs = .zero → AllWritten s ∧ (∀ r, r ≠ .gpr15 → s.regs.getReg r = 0) ∧
      ∀ m f, s.regs.getFlag m f = false) ∧
    (l.resetRegs = .unwritten → (∀ r, r ≠ .gpr15 → isWritten (.reg r) s = false) ∧
      ∀ m f, isWritten (.flag m f) s = false) ∧
    (∀ k, (hk : k < l.bootImage.length) →
      rawRead (BitVec.ofNat 32 k) .byte s = .ok (l.bootImage[k].setWidth 32)) ∧
    (∀ k, (hk : k < l.romImage.length) →
      rawRead (BitVec.ofNat 32 (0x08000000 + k)) .byte s = .ok (l.romImage[k].setWidth 32)) ∧
    (∀ a m : Word, 0x02000000 ≤ a.toNat → a.toNat < 0x08000000 → rawRead a .byte s = .ok m → m = 0) ∧
    s.ds.bgMode = 0 ∧ s.ds.objMapping = false ∧ (∀ n : Fin 4, s.ds.bgEnable[n] = false) ∧ s.ds.objEnable = false ∧
    (∀ n : Fin 4, s.ds.bg[n] =
      { priority := 0, charBase := 0, mosaic := false, colorDepth := false, screenBase := 0, size := 0 }) ∧
    s.ds.wsN = 4 ∧ s.ds.wsS = 2 ∧ s.vblank = false ∧ s.hblank = false ∧ s.scanline = 0 ∧ s.anomalies = []

/-- 70_reset_and_hazards.md R203: a session starts exactly when both images are present and sized correctly. -/
def Obligations.LoaderContract : Prop :=
  (∀ l : Launch, (∃ s, launch l = .ok s) ↔
    l.bootImage.length = 16384 ∧ 1 ≤ l.romImage.length ∧ l.romImage.length ≤ 0x02000000) ∧
  (∀ (l : Launch) (s : State), launch l = .ok s → s.params.romSize = l.romImage.length)

/-- 10_state.md R44, log entries 2, 3 and 4: the state the host interface starts from. The values of all 26 registers and of
the flags of all six modes, the written marks, and the two all-zero images are the model's choice. -/
def Obligations.ResetValues : Prop :=
  pcOf State.reset = 0 ∧ State.reset.mode = .supervisor ∧ State.reset.isa = .wide ∧ State.reset.params = Params.default ∧
  (∀ r : RegSlot, State.reset.regs.getReg r = 0) ∧ (∀ (m : Mode) (f : Flag), State.reset.regs.getFlag m f = false) ∧
  AllWritten State.reset ∧ State.reset.ds = DisplayStatus.reset ∧ State.reset.vblank = false ∧
  State.reset.hblank = false ∧ State.reset.scanline = 0 ∧ State.reset.mem = [] ∧ State.reset.anomalies = []

/-- The invariant holds at reset. -/
def Obligations.ResetInv : Prop := Inv State.reset

/-- Every step that ends in a next state keeps the invariant, from every state that meets it: memory stays canonical and
within the storage of 20_memory.md R60, the cycle costs stay in the tables of R73, every anomaly names the ROM byte it
was written to (10_state.md R41), and the counter stays written (R45). -/
def Obligations.StepKeepsInv : Prop :=
  ∀ s t : State, Inv s → step s = .next t → Inv t

/-- Every host action that succeeds keeps the invariant (60_exceptions.md R190). -/
def Obligations.HostActionKeepsInv : Prop :=
  ∀ (a : HostAction) (s t : State), Inv s → hostAct a s = .ok t → Inv t

/-- Every state of every session, under any mix of steps and host actions, meets the invariant (60_exceptions.md R190,
70_reset_and_hazards.md R200). -/
def Obligations.ReachableInv : Prop :=
  ∀ s : State, Reachable s → Inv s

end
end

