-- ==== Sys2Proof/Laws/State.lean ====
section
/-! SUPPORT. What each named update does to each field of State, by rfl, so that no proof unfolds a record update. -/
namespace Sys2Proof.Machine

variable (s : State)

/-! ### setPc -/

@[simp] theorem setPc_regs (v : Word) : (setPc v s).regs = { s.regs with gpr15 := v } := rfl
@[simp] theorem setPc_written (v : Word) : (setPc v s).written = { s.written with gpr15 := true } := rfl
@[simp] theorem setPc_isa (v : Word) : (setPc v s).isa = s.isa := rfl
@[simp] theorem setPc_mode (v : Word) : (setPc v s).mode = s.mode := rfl
@[simp] theorem setPc_mem (v : Word) : (setPc v s).mem = s.mem := rfl
@[simp] theorem setPc_ds (v : Word) : (setPc v s).ds = s.ds := rfl
@[simp] theorem setPc_vblank (v : Word) : (setPc v s).vblank = s.vblank := rfl
@[simp] theorem setPc_hblank (v : Word) : (setPc v s).hblank = s.hblank := rfl
@[simp] theorem setPc_scanline (v : Word) : (setPc v s).scanline = s.scanline := rfl
@[simp] theorem setPc_anomalies (v : Word) : (setPc v s).anomalies = s.anomalies := rfl
@[simp] theorem setPc_draws (v : Word) : (setPc v s).draws = s.draws := rfl
@[simp] theorem setPc_params (v : Word) : (setPc v s).params = s.params := rfl

/-! ### writeReg -/

@[simp] theorem writeReg_regs (i : Reg) (v : Word) : (writeReg i v s).regs = s.regs.setReg (regSlot s.mode i) v := rfl
@[simp] theorem writeReg_written (i : Reg) (v : Word) : (writeReg i v s).written = s.written.setReg (regSlot s.mode i) true := rfl
@[simp] theorem writeReg_isa (i : Reg) (v : Word) : (writeReg i v s).isa = s.isa := rfl
@[simp] theorem writeReg_mode (i : Reg) (v : Word) : (writeReg i v s).mode = s.mode := rfl
@[simp] theorem writeReg_mem (i : Reg) (v : Word) : (writeReg i v s).mem = s.mem := rfl
@[simp] theorem writeReg_ds (i : Reg) (v : Word) : (writeReg i v s).ds = s.ds := rfl
@[simp] theorem writeReg_vblank (i : Reg) (v : Word) : (writeReg i v s).vblank = s.vblank := rfl
@[simp] theorem writeReg_hblank (i : Reg) (v : Word) : (writeReg i v s).hblank = s.hblank := rfl
@[simp] theorem writeReg_scanline (i : Reg) (v : Word) : (writeReg i v s).scanline = s.scanline := rfl
@[simp] theorem writeReg_anomalies (i : Reg) (v : Word) : (writeReg i v s).anomalies = s.anomalies := rfl
@[simp] theorem writeReg_draws (i : Reg) (v : Word) : (writeReg i v s).draws = s.draws := rfl
@[simp] theorem writeReg_params (i : Reg) (v : Word) : (writeReg i v s).params = s.params := rfl

/-! ### setFlag -/

@[simp] theorem setFlag_regs (f : Flag) (b : Bool) : (setFlag f b s).regs = s.regs.setFlag s.mode f b := rfl
@[simp] theorem setFlag_written (f : Flag) (b : Bool) : (setFlag f b s).written = s.written.setFlag s.mode f true := rfl
@[simp] theorem setFlag_isa (f : Flag) (b : Bool) : (setFlag f b s).isa = s.isa := rfl
@[simp] theorem setFlag_mode (f : Flag) (b : Bool) : (setFlag f b s).mode = s.mode := rfl
@[simp] theorem setFlag_mem (f : Flag) (b : Bool) : (setFlag f b s).mem = s.mem := rfl
@[simp] theorem setFlag_ds (f : Flag) (b : Bool) : (setFlag f b s).ds = s.ds := rfl
@[simp] theorem setFlag_vblank (f : Flag) (b : Bool) : (setFlag f b s).vblank = s.vblank := rfl
@[simp] theorem setFlag_hblank (f : Flag) (b : Bool) : (setFlag f b s).hblank = s.hblank := rfl
@[simp] theorem setFlag_scanline (f : Flag) (b : Bool) : (setFlag f b s).scanline = s.scanline := rfl
@[simp] theorem setFlag_anomalies (f : Flag) (b : Bool) : (setFlag f b s).anomalies = s.anomalies := rfl
@[simp] theorem setFlag_draws (f : Flag) (b : Bool) : (setFlag f b s).draws = s.draws := rfl
@[simp] theorem setFlag_params (f : Flag) (b : Bool) : (setFlag f b s).params = s.params := rfl

/-! ### switchOperatingMode -/

@[simp] theorem switchOperatingMode_regs (m : Mode) : (switchOperatingMode m s).regs = s.regs := rfl
@[simp] theorem switchOperatingMode_written (m : Mode) : (switchOperatingMode m s).written = s.written := rfl
@[simp] theorem switchOperatingMode_isa (m : Mode) : (switchOperatingMode m s).isa = s.isa := rfl
@[simp] theorem switchOperatingMode_mode (m : Mode) : (switchOperatingMode m s).mode = m := rfl
@[simp] theorem switchOperatingMode_mem (m : Mode) : (switchOperatingMode m s).mem = s.mem := rfl
@[simp] theorem switchOperatingMode_ds (m : Mode) : (switchOperatingMode m s).ds = s.ds := rfl
@[simp] theorem switchOperatingMode_vblank (m : Mode) : (switchOperatingMode m s).vblank = s.vblank := rfl
@[simp] theorem switchOperatingMode_hblank (m : Mode) : (switchOperatingMode m s).hblank = s.hblank := rfl
@[simp] theorem switchOperatingMode_scanline (m : Mode) : (switchOperatingMode m s).scanline = s.scanline := rfl
@[simp] theorem switchOperatingMode_anomalies (m : Mode) : (switchOperatingMode m s).anomalies = s.anomalies := rfl
@[simp] theorem switchOperatingMode_draws (m : Mode) : (switchOperatingMode m s).draws = s.draws := rfl
@[simp] theorem switchOperatingMode_params (m : Mode) : (switchOperatingMode m s).params = s.params := rfl

/-! ### switchInstrSet -/

@[simp] theorem switchInstrSet_regs (i : InstrSet) : (switchInstrSet i s).regs = s.regs := rfl
@[simp] theorem switchInstrSet_written (i : InstrSet) : (switchInstrSet i s).written = s.written := rfl
@[simp] theorem switchInstrSet_isa (i : InstrSet) : (switchInstrSet i s).isa = i := rfl
@[simp] theorem switchInstrSet_mode (i : InstrSet) : (switchInstrSet i s).mode = s.mode := rfl
@[simp] theorem switchInstrSet_mem (i : InstrSet) : (switchInstrSet i s).mem = s.mem := rfl
@[simp] theorem switchInstrSet_ds (i : InstrSet) : (switchInstrSet i s).ds = s.ds := rfl
@[simp] theorem switchInstrSet_vblank (i : InstrSet) : (switchInstrSet i s).vblank = s.vblank := rfl
@[simp] theorem switchInstrSet_hblank (i : InstrSet) : (switchInstrSet i s).hblank = s.hblank := rfl
@[simp] theorem switchInstrSet_scanline (i : InstrSet) : (switchInstrSet i s).scanline = s.scanline := rfl
@[simp] theorem switchInstrSet_anomalies (i : InstrSet) : (switchInstrSet i s).anomalies = s.anomalies := rfl
@[simp] theorem switchInstrSet_draws (i : InstrSet) : (switchInstrSet i s).draws = s.draws := rfl
@[simp] theorem switchInstrSet_params (i : InstrSet) : (switchInstrSet i s).params = s.params := rfl

/-! ### storeBacking -/

@[simp] theorem storeBacking_regs (l : Loc) (b : Byte) : (storeBacking l b s).regs = s.regs := rfl
@[simp] theorem storeBacking_written (l : Loc) (b : Byte) : (storeBacking l b s).written = s.written := rfl
@[simp] theorem storeBacking_isa (l : Loc) (b : Byte) : (storeBacking l b s).isa = s.isa := rfl
@[simp] theorem storeBacking_mode (l : Loc) (b : Byte) : (storeBacking l b s).mode = s.mode := rfl
@[simp] theorem storeBacking_mem (l : Loc) (b : Byte) : (storeBacking l b s).mem = Memory.write s.mem (resolvedAddr l) b := rfl
@[simp] theorem storeBacking_ds (l : Loc) (b : Byte) : (storeBacking l b s).ds = s.ds := rfl
@[simp] theorem storeBacking_vblank (l : Loc) (b : Byte) : (storeBacking l b s).vblank = s.vblank := rfl
@[simp] theorem storeBacking_hblank (l : Loc) (b : Byte) : (storeBacking l b s).hblank = s.hblank := rfl
@[simp] theorem storeBacking_scanline (l : Loc) (b : Byte) : (storeBacking l b s).scanline = s.scanline := rfl
@[simp] theorem storeBacking_anomalies (l : Loc) (b : Byte) : (storeBacking l b s).anomalies = s.anomalies := rfl
@[simp] theorem storeBacking_draws (l : Loc) (b : Byte) : (storeBacking l b s).draws = s.draws := rfl
@[simp] theorem storeBacking_params (l : Loc) (b : Byte) : (storeBacking l b s).params = s.params := rfl

/-! ### storeRom -/

@[simp] theorem storeRom_regs (l : Loc) (b : Byte) : (storeRom l b s).regs = s.regs := rfl
@[simp] theorem storeRom_written (l : Loc) (b : Byte) : (storeRom l b s).written = s.written := rfl
@[simp] theorem storeRom_isa (l : Loc) (b : Byte) : (storeRom l b s).isa = s.isa := rfl
@[simp] theorem storeRom_mode (l : Loc) (b : Byte) : (storeRom l b s).mode = s.mode := rfl
@[simp] theorem storeRom_mem (l : Loc) (b : Byte) : (storeRom l b s).mem = Memory.write s.mem (resolvedAddr l) b := rfl
@[simp] theorem storeRom_ds (l : Loc) (b : Byte) : (storeRom l b s).ds = s.ds := rfl
@[simp] theorem storeRom_vblank (l : Loc) (b : Byte) : (storeRom l b s).vblank = s.vblank := rfl
@[simp] theorem storeRom_hblank (l : Loc) (b : Byte) : (storeRom l b s).hblank = s.hblank := rfl
@[simp] theorem storeRom_scanline (l : Loc) (b : Byte) : (storeRom l b s).scanline = s.scanline := rfl
@[simp] theorem storeRom_anomalies (l : Loc) (b : Byte) : (storeRom l b s).anomalies = s.anomalies ++ [{ bus := l.bus, index := l.offset, byte := b }] := rfl
@[simp] theorem storeRom_draws (l : Loc) (b : Byte) : (storeRom l b s).draws = s.draws := rfl
@[simp] theorem storeRom_params (l : Loc) (b : Byte) : (storeRom l b s).params = s.params := rfl

/-! ### driveDisplay -/

@[simp] theorem driveDisplay_regs (vb hb : Bool) (sl : BitVec 16) : (driveDisplay vb hb sl s).regs = s.regs := rfl
@[simp] theorem driveDisplay_written (vb hb : Bool) (sl : BitVec 16) : (driveDisplay vb hb sl s).written = s.written := rfl
@[simp] theorem driveDisplay_isa (vb hb : Bool) (sl : BitVec 16) : (driveDisplay vb hb sl s).isa = s.isa := rfl
@[simp] theorem driveDisplay_mode (vb hb : Bool) (sl : BitVec 16) : (driveDisplay vb hb sl s).mode = s.mode := rfl
@[simp] theorem driveDisplay_mem (vb hb : Bool) (sl : BitVec 16) : (driveDisplay vb hb sl s).mem = s.mem := rfl
@[simp] theorem driveDisplay_ds (vb hb : Bool) (sl : BitVec 16) : (driveDisplay vb hb sl s).ds = s.ds := rfl
@[simp] theorem driveDisplay_vblank (vb hb : Bool) (sl : BitVec 16) : (driveDisplay vb hb sl s).vblank = vb := rfl
@[simp] theorem driveDisplay_hblank (vb hb : Bool) (sl : BitVec 16) : (driveDisplay vb hb sl s).hblank = hb := rfl
@[simp] theorem driveDisplay_scanline (vb hb : Bool) (sl : BitVec 16) : (driveDisplay vb hb sl s).scanline = sl := rfl
@[simp] theorem driveDisplay_anomalies (vb hb : Bool) (sl : BitVec 16) : (driveDisplay vb hb sl s).anomalies = s.anomalies := rfl
@[simp] theorem driveDisplay_draws (vb hb : Bool) (sl : BitVec 16) : (driveDisplay vb hb sl s).draws = s.draws := rfl
@[simp] theorem driveDisplay_params (vb hb : Bool) (sl : BitVec 16) : (driveDisplay vb hb sl s).params = s.params := rfl

end Sys2Proof.Machine
end

