-- ==== Sys2Proof/Laws/RegFile.lean ====
section
/-! SUPPORT. Reads after writes of the register file, its marks and its flags. -/
namespace Sys2Proof.Machine

/-! ## One value per mode, per flag -/

@[simp] theorem PerMode.get_set {γ : Type} (p : PerMode γ) (m k : Mode) (x : γ) :
    (p.set m x).get k = if k = m then x else p.get k := by
  cases m <;> cases k <;> rfl

@[simp] theorem FlagSet.get_set {β : Type} (s : FlagSet β) (f g : Flag) (x : β) :
    (s.set f x).get g = if g = f then x else s.get g := by
  cases f <;> cases g <;> rfl

/-! ## Physical slots -/

/-- A read of a register slot after a write of one. -/
theorem RegFile.getReg_setReg {α β : Type} (r : RegFile α β) (w k : RegSlot) (x : α) :
    (r.setReg w x).getReg k = if k = w then x else r.getReg k := by
  cases w <;> cases k <;> simp [RegFile.setReg, RegFile.getReg]
  case gpr.gpr i j =>
    by_cases h : i = j
    · subst h; simp
    · have h' : (i : Nat) ≠ j := fun e => h (Fin.ext e)
      simp [h', Ne.symm h]
  all_goals split <;> simp_all

@[simp] theorem RegFile.getReg_setReg_same {α β : Type} (r : RegFile α β) (w : RegSlot) (x : α) :
    (r.setReg w x).getReg w = x := by
  simp [RegFile.getReg_setReg]

theorem RegFile.getReg_setReg_ne {α β : Type} (r : RegFile α β) {w k : RegSlot} (h : k ≠ w) (x : α) :
    (r.setReg w x).getReg k = r.getReg k := by
  simp [RegFile.getReg_setReg, h]

/-- A register write leaves every flag. -/
@[simp] theorem RegFile.getFlag_setReg {α β : Type} (r : RegFile α β) (w : RegSlot) (x : α) (m : Mode) (f : Flag) :
    (r.setReg w x).getFlag m f = r.getFlag m f := by
  cases w <;> simp [RegFile.setReg, RegFile.getFlag]
  all_goals split <;> simp_all

/-- A flag write leaves every register. -/
@[simp] theorem RegFile.getReg_setFlag {α β : Type} (r : RegFile α β) (m : Mode) (f : Flag) (x : β) (k : RegSlot) :
    (r.setFlag m f x).getReg k = r.getReg k := by
  cases k <;> simp [RegFile.setFlag, RegFile.getReg]
  all_goals split <;> simp_all

/-- A read of a flag slot after a write of one. -/
theorem RegFile.getFlag_setFlag {α β : Type} (r : RegFile α β) (m k : Mode) (f g : Flag) (x : β) :
    (r.setFlag m f x).getFlag k g = if k = m ∧ g = f then x else r.getFlag k g := by
  simp only [RegFile.setFlag, RegFile.getFlag, PerMode.get_set]
  split <;> simp_all

@[simp] theorem RegFile.getReg_fill {α β : Type} (a : α) (b : β) (k : RegSlot) : (RegFile.fill a b).getReg k = a := by
  cases k with
  | gpr i => simp [RegFile.fill, RegFile.getReg]
  | gpr15 => rfl
  | r13 m => cases m <;> rfl
  | r14 m => cases m <;> rfl

@[simp] theorem RegFile.getFlag_fill {α β : Type} (a : α) (b : β) (m : Mode) (f : Flag) :
    (RegFile.fill a b).getFlag m f = b := by
  cases m <;> cases f <;> rfl

/-- Two register files that read the same everywhere are the same. -/
theorem RegFile.ext_reads {α β : Type} {r q : RegFile α β} (hr : ∀ k, r.getReg k = q.getReg k)
    (hf : ∀ m f, r.getFlag m f = q.getFlag m f) : r = q := by
  have bank : ∀ m, r.bank.get m = q.bank.get m := by
    intro m
    have h13 := hr (.r13 m)
    have h14 := hr (.r14 m)
    have hn := hf m .n
    have hz := hf m .z
    have hc := hf m .c
    have hv := hf m .v
    simp only [RegFile.getReg, RegFile.getFlag, FlagSet.get] at h13 h14 hn hz hc hv
    generalize r.bank.get m = x at *
    generalize q.bank.get m = y at *
    rcases x with ⟨_, _, ⟨_, _, _, _⟩⟩
    rcases y with ⟨_, _, ⟨_, _, _, _⟩⟩
    simp_all
  have gpr : r.gpr = q.gpr := by
    ext i hi
    exact hr (.gpr ⟨i, hi⟩)
  have pc : r.gpr15 = q.gpr15 := hr .gpr15
  have banks : r.bank = q.bank := by
    have u := bank .user
    have fi := bank .fastInterrupt
    have irq := bank .interrupt
    have svc := bank .supervisor
    have abt := bank .abort
    have und := bank .undefined
    rcases r with ⟨_, _, ⟨_, _, _, _, _, _⟩⟩
    rcases q with ⟨_, _, ⟨_, _, _, _, _, _⟩⟩
    simp_all [PerMode.get]
  rcases r with ⟨_, _, _⟩
  rcases q with ⟨_, _, _⟩
  simp_all

/-! ## Logical registers -/

theorem regSlot_15 (m : Mode) : regSlot m 15 = .gpr15 := rfl

theorem regSlot_14 (m : Mode) : regSlot m 14 = .r14 m := rfl

theorem regSlot_13 (m : Mode) : regSlot m 13 = .r13 m := rfl

/-- In one mode, two register numbers name the same slot only if they are the same number (R22). -/
theorem regSlot_inj (m : Mode) {i j : Reg} : regSlot m i = regSlot m j ↔ i = j := by
  constructor
  · intro h
    revert h
    cases m <;> revert i j <;> decide
  · rintro rfl
    rfl

theorem regSlot_eq_gpr15 (m : Mode) (i : Reg) : regSlot m i = .gpr15 ↔ i = 15 := by
  rw [← regSlot_15 m, regSlot_inj]

/-- The counter is a register slot like the others. -/
theorem pcOf_eq_getReg (s : State) : pcOf s = s.regs.getReg .gpr15 := rfl

theorem setPc_eq_writeReg (v : Word) (s : State) : setPc v s = writeReg 15 v s := rfl

theorem regs_setPc (v : Word) (r : RegFile Word Bool) : { r with gpr15 := v } = r.setReg .gpr15 v := rfl

@[simp] theorem pcOf_setPc (v : Word) (s : State) : pcOf (setPc v s) = v := rfl

/-- A read of a logical register after a write of one, in the same mode (R22, R23). -/
theorem readReg_writeReg (i j : Reg) (v : Word) (s : State) :
    readReg j (writeReg i v s) = if j = i then v else readReg j s := by
  simp [readReg, RegFile.getReg_setReg, regSlot_inj]

theorem pcOf_writeReg (i : Reg) (v : Word) (s : State) :
    pcOf (writeReg i v s) = if i = 15 then v else pcOf s := by
  rw [pcOf_eq_getReg, writeReg_regs, RegFile.getReg_setReg]
  simp only [eq_comm (a := RegSlot.gpr15), regSlot_eq_gpr15, pcOf_eq_getReg]

@[simp] theorem pcOf_setFlag (f : Flag) (b : Bool) (s : State) : pcOf (setFlag f b s) = pcOf s := rfl

/-- What a checked read answers (R45): the register's value, or the slot whose mark is clear. -/
theorem readChecked_eq (i : Reg) (s : State) :
    (isWritten (.reg (regSlot s.mode i)) s = true ∧ readChecked i s = .ok (readReg i s)) ∨
    (isWritten (.reg (regSlot s.mode i)) s = false ∧
      readChecked i s = .error (.unwrittenRead (.reg (regSlot s.mode i)))) := by
  change (s.written.getReg (regSlot s.mode i) = true ∧ _) ∨ (s.written.getReg (regSlot s.mode i) = false ∧ _)
  cases h : s.written.getReg (regSlot s.mode i) <;> simp [readChecked, h]

theorem readChecked_ok {i : Reg} {s : State} (h : isWritten (.reg (regSlot s.mode i)) s = true) :
    readChecked i s = .ok (readReg i s) := by
  rcases readChecked_eq i s with ⟨_, e⟩ | ⟨f, _⟩
  · exact e
  · simp [h] at f

theorem readChecked_unwritten {i : Reg} {s : State} (h : isWritten (.reg (regSlot s.mode i)) s = false) :
    readChecked i s = .error (.unwrittenRead (.reg (regSlot s.mode i))) := by
  rcases readChecked_eq i s with ⟨f, _⟩ | ⟨_, e⟩
  · simp [h] at f
  · exact e

end Sys2Proof.Machine
end

