-- ==== Sys2Proof/Laws/Address.lean ====
section
/-! SUPPORT. What the address decoder answers. -/
namespace Sys2Proof.Machine

theorem vramFold_lt (p : Params) (o : Nat) : vramFold p o < 0x18000 := by
  unfold vramFold
  split
  · split <;> omega
  · omega

/-- What `resolve` answers: the address it was given is out of range, or it names a byte that exists. -/
theorem resolve_cases (p : Params) (a : Word) :
    resolve p a = .error (.outOfRange a) ∨
    ∃ l, resolve p a = .ok l ∧ l.bus = a ∧ l.offset < regionSize p l.region := by
  unfold resolve romIndex
  split <;> (try split) <;>
    first
    | exact .inl rfl
    | exact .inr ⟨_, rfl, rfl, by simp only [regionSize]; first | omega | exact vramFold_lt _ _⟩

theorem resolve_error {p : Params} {a : Word} {e : PortFault} (h : resolve p a = .error e) : e = .outOfRange a := by
  rcases resolve_cases p a with h' | ⟨l, h', _⟩ <;> rw [h'] at h <;> cases h
  rfl

theorem resolve_bus {p : Params} {a : Word} {l : Loc} (h : resolve p a = .ok l) : l.bus = a := by
  rcases resolve_cases p a with h' | ⟨l', h', hb, _⟩ <;> rw [h'] at h <;> cases h
  exact hb

theorem resolve_offset_lt {p : Params} {a : Word} {l : Loc} (h : resolve p a = .ok l) :
    l.offset < regionSize p l.region := by
  rcases resolve_cases p a with h' | ⟨l', h', _, ho⟩ <;> rw [h'] at h <;> cases h
  exact ho

/-- What `rawResolve` answers: out of range, or the byte whose resolved address is the address itself. -/
theorem rawResolve_cases (p : Params) (a : Word) :
    rawResolve p a = .error (.outOfRange a) ∨
    ∃ l, rawResolve p a = .ok l ∧ l.bus = a ∧ l.offset < regionSize p l.region ∧ resolvedAddr l = a.toNat := by
  have primary : ∀ r, inPrimary p r a = true → a.toNat - regionBase r < regionSize p r ∧
      resolvedAddr ⟨a, r, a.toNat - regionBase r⟩ = a.toNat := by
    intro r h
    simp only [inPrimary, Bool.and_eq_true, decide_eq_true_eq] at h
    exact ⟨by omega, by simp only [resolvedAddr]; omega⟩
  unfold rawResolve
  repeat' split
  all_goals first
    | exact .inl rfl
    | (rename_i h; exact .inr ⟨_, rfl, rfl, primary _ h⟩)

theorem rawResolve_error {p : Params} {a : Word} {e : PortFault} (h : rawResolve p a = .error e) :
    e = .outOfRange a := by
  rcases rawResolve_cases p a with h' | ⟨l, h', _⟩ <;> rw [h'] at h <;> cases h
  rfl

theorem rawResolve_ok {p : Params} {a : Word} {l : Loc} (h : rawResolve p a = .ok l) :
    l.bus = a ∧ l.offset < regionSize p l.region ∧ resolvedAddr l = a.toNat := by
  rcases rawResolve_cases p a with h' | ⟨l', h', hl⟩ <;> rw [h'] at h <;> cases h
  exact hl

/-- The address after `a + k`, counted from `a + 1`. -/
theorem addr_succ (a : Word) (k : Nat) : a + 1 + BitVec.ofNat 32 k = a + BitVec.ofNat 32 (k + 1) := by
  apply BitVec.eq_of_toNat_eq
  have one : (1 : Word).toNat = 1 := rfl
  simp only [BitVec.toNat_add, BitVec.toNat_ofNat, one]
  omega

/-- A span that resolves: `n` locations, the k-th being what address `a + k` resolves to. -/
theorem spanOf_ok {res : Word → Except PortFault Loc} {a : Word} {n : Nat} {ls : List Loc}
    (h : spanOf res a n = .ok ls) :
    ls.length = n ∧ ∀ k, (hk : k < ls.length) → res (a + BitVec.ofNat 32 k) = .ok ls[k] := by
  induction n generalizing a ls with
  | zero => cases h; simp
  | succ n ih =>
    unfold spanOf at h
    split at h
    · cases h
    · rename_i l hl
      split at h
      · cases h
      · rename_i rest hr
        cases h
        obtain ⟨len, each⟩ := ih hr
        refine ⟨by simp [len], ?_⟩
        intro k hk
        cases k with
        | zero => simpa using hl
        | succ k =>
          have := each k (by simpa using hk)
          rw [addr_succ] at this
          exact this

/-- Every location of a span is what some address resolves to. -/
theorem spanOf_mem {res : Word → Except PortFault Loc} {a : Word} {n : Nat} {ls : List Loc}
    (h : spanOf res a n = .ok ls) {l : Loc} (hl : l ∈ ls) : ∃ b, res b = .ok l := by
  obtain ⟨k, hk, rfl⟩ := List.getElem_of_mem hl
  exact ⟨_, (spanOf_ok h).2 k hk⟩

/-- A span that does not resolve: the fault is that of its first address that does not. -/
theorem spanOf_error {res : Word → Except PortFault Loc} {a : Word} {n : Nat} {e : PortFault}
    (h : spanOf res a n = .error e) :
    ∃ k, k < n ∧ res (a + BitVec.ofNat 32 k) = .error e ∧
      ∀ j, j < k → ∃ l, res (a + BitVec.ofNat 32 j) = .ok l := by
  induction n generalizing a with
  | zero => cases h
  | succ n ih =>
    unfold spanOf at h
    split at h
    · rename_i e' he
      cases h
      exact ⟨0, by omega, by simpa using he, by omega⟩
    · rename_i l hl
      split at h
      · rename_i e' he
        cases h
        obtain ⟨k, hk, hbad, hgood⟩ := ih he
        refine ⟨k + 1, by omega, by rw [← addr_succ]; exact hbad, ?_⟩
        intro j hj
        cases j with
        | zero => exact ⟨l, by simpa using hl⟩
        | succ j => rw [← addr_succ]; exact hgood j (by omega)
      · cases h

/-- A span resolves exactly when every one of its addresses does. -/
theorem spanOf_isOk {res : Word → Except PortFault Loc} {a : Word} {n : Nat}
    (h : ∀ k, k < n → ∃ l, res (a + BitVec.ofNat 32 k) = .ok l) : ∃ ls, spanOf res a n = .ok ls := by
  cases hs : spanOf res a n with
  | ok ls => exact ⟨ls, rfl⟩
  | error e =>
    obtain ⟨k, hk, hbad, _⟩ := spanOf_error hs
    obtain ⟨l, hl⟩ := h k hk
    rw [hl] at hbad
    cases hbad

/-! ## Where an address resolves -/

/-- The video-RAM fold in its three cases (20_memory.md R55). -/
theorem vramFold_cases (p : Params) (o : Nat) :
    (p.vramMirror = .gba128 ∧ o % 0x20000 < 0x18000 ∧ vramFold p o = o % 0x20000) ∨
    (p.vramMirror = .gba128 ∧ 0x18000 ≤ o % 0x20000 ∧ vramFold p o = o % 0x20000 - 0x8000) ∨
    (p.vramMirror = .mod96 ∧ vramFold p o = o % 0x18000) := by
  unfold vramFold
  cases h : p.vramMirror with
  | gba128 =>
    by_cases h2 : o % 0x20000 < 0x18000
    · exact .inl ⟨rfl, h2, by simp [h2]⟩
    · exact .inr (.inl ⟨rfl, by omega, by simp [h2]⟩)
  | mod96 => exact .inr (.inr ⟨rfl, rfl⟩)

/-- Where an address that resolves lies, and what it resolves to (20_memory.md R52, R53). -/
theorem resolve_places {p : Params} {a : Word} {l : Loc} (h : resolve p a = .ok l) :
    (a.toNat < 0x4000 ∧ l = ⟨a, .boot, a.toNat⟩) ∨
    (0x02000000 ≤ a.toNat ∧ a.toNat < 0x03000000 ∧ l = ⟨a, .wram1, (a.toNat - 0x02000000) % 0x40000⟩) ∨
    (0x03000000 ≤ a.toNat ∧ a.toNat < 0x04000000 ∧ l = ⟨a, .wram2, (a.toNat - 0x03000000) % 0x8000⟩) ∨
    (0x04000000 ≤ a.toNat ∧ a.toNat < 0x04000400 ∧ l = ⟨a, .io, a.toNat - 0x04000000⟩) ∨
    (0x05000000 ≤ a.toNat ∧ a.toNat < 0x06000000 ∧ l = ⟨a, .palette, (a.toNat - 0x05000000) % 0x400⟩) ∨
    (0x06000000 ≤ a.toNat ∧ a.toNat < 0x07000000 ∧ l = ⟨a, .vram, vramFold p (a.toNat - 0x06000000)⟩) ∨
    (0x07000000 ≤ a.toNat ∧ a.toNat < 0x08000000 ∧ l = ⟨a, .oam, (a.toNat - 0x07000000) % 0x400⟩) ∨
    ∃ b, (b = 0x08000000 ∨ b = 0x0A000000 ∨ b = 0x0C000000) ∧ b ≤ a.toNat ∧ a.toNat < b + 0x02000000 ∧
      a.toNat - b < p.romSize ∧ l = ⟨a, .rom, a.toNat - b⟩ := by
  unfold resolve romIndex at h
  split at h <;> (try split at h) <;> cases h <;> rename_i hq
  · exact .inl ⟨by omega, rfl⟩
  · exact .inr (.inl ⟨by omega, by omega, rfl⟩)
  · exact .inr (.inr (.inl ⟨by omega, by omega, rfl⟩))
  · exact .inr (.inr (.inr (.inl ⟨by omega, by omega, rfl⟩)))
  · exact .inr (.inr (.inr (.inr (.inl ⟨by omega, by omega, rfl⟩))))
  · exact .inr (.inr (.inr (.inr (.inr (.inl ⟨by omega, by omega, rfl⟩)))))
  · exact .inr (.inr (.inr (.inr (.inr (.inr (.inl ⟨by omega, by omega, rfl⟩))))))
  all_goals
    refine .inr (.inr (.inr (.inr (.inr (.inr (.inr ?_))))))
    first
    | exact ⟨_, .inl rfl, by omega, by omega, by omega, by rfl⟩
    | exact ⟨_, .inr (.inl rfl), by omega, by omega, by omega, by rfl⟩
    | exact ⟨_, .inr (.inr rfl), by omega, by omega, by omega, by rfl⟩

/-- Two addresses less than four apart never resolve to the same byte: every mirror period is longer (20_memory.md R52). -/
theorem resolve_near {p : Params} {a b : Word} {l k : Loc} (ha : resolve p a = .ok l) (hb : resolve p b = .ok k)
    {d : Nat} (hd : 0 < d) (hd4 : d < 4) (hab : b.toNat = (a.toNat + d) % 2 ^ 32) :
    resolvedAddr l ≠ resolvedAddr k := by
  have la := a.isLt
  have oa := resolve_offset_lt ha
  have ob := resolve_offset_lt hb
  rcases resolve_places ha with ⟨h1, rfl⟩ | ⟨h1, h2, rfl⟩ | ⟨h1, h2, rfl⟩ | ⟨h1, h2, rfl⟩ | ⟨h1, h2, rfl⟩ |
      ⟨h1, h2, rfl⟩ | ⟨h1, h2, rfl⟩ | ⟨b1, hb1, h1, h2, h3, rfl⟩ <;>
    rcases resolve_places hb with ⟨g1, rfl⟩ | ⟨g1, g2, rfl⟩ | ⟨g1, g2, rfl⟩ | ⟨g1, g2, rfl⟩ | ⟨g1, g2, rfl⟩ |
      ⟨g1, g2, rfl⟩ | ⟨g1, g2, rfl⟩ | ⟨b2, hb2, g1, g2, g3, rfl⟩ <;>
    simp only [resolvedAddr, regionBase, regionSize] at * <;> try omega
  rcases vramFold_cases p (a.toNat - 0x06000000) with ⟨v0, v1, v⟩ | ⟨v0, v1, v⟩ | ⟨v0, v⟩ <;>
    rcases vramFold_cases p (b.toNat - 0x06000000) with ⟨w0, w1, w⟩ | ⟨w0, w1, w⟩ | ⟨w0, w⟩ <;> rw [v, w] <;> omega

/-- The locations of an access of at most four bytes are distinct bytes of storage. -/
theorem spanOf_resolve_nodup {p : Params} {a : Word} {n : Nat} {ls : List Loc} (hn : n ≤ 4)
    (h : spanOf (resolve p) a n = .ok ls) : (ls.map resolvedAddr).Nodup := by
  obtain ⟨hl, hk⟩ := spanOf_ok h
  rw [List.nodup_iff_pairwise_ne, List.pairwise_iff_getElem]
  intro i j hi hj hij
  simp only [List.length_map] at hi hj
  rw [List.getElem_map, List.getElem_map]
  refine resolve_near (hk i hi) (hk j hj) (d := j - i) (by omega) (by omega) ?_
  simp only [BitVec.toNat_add, BitVec.toNat_ofNat]
  omega

theorem spanOf_rawResolve_nodup {p : Params} {a : Word} {n : Nat} {ls : List Loc} (hn : n ≤ 4)
    (h : spanOf (rawResolve p) a n = .ok ls) : (ls.map resolvedAddr).Nodup := by
  obtain ⟨hl, hk⟩ := spanOf_ok h
  rw [List.nodup_iff_pairwise_ne, List.pairwise_iff_getElem]
  intro i j hi hj hij
  simp only [List.length_map] at hi hj
  rw [List.getElem_map, List.getElem_map, (rawResolve_ok (hk i hi)).2.2, (rawResolve_ok (hk j hj)).2.2]
  simp only [BitVec.toNat_add, BitVec.toNat_ofNat]
  omega

end Sys2Proof.Machine
end

