-- ==== Sys2Proof/Laws/Memory.lean ====
section
/-! SUPPORT. Memory as a list: the canonical form, and reads after writes. -/
namespace Sys2Proof.Machine

theorem Memory.wfAbove_mono {m : Memory} {lo lo' : Nat} (hl : lo' ≤ lo) (h : Memory.wfAbove m lo = true) :
    Memory.wfAbove m lo' = true := by
  cases m with
  | nil => rfl
  | cons c rest =>
    obtain ⟨k, b⟩ := c
    simp only [Memory.wfAbove, Bool.and_eq_true, decide_eq_true_eq] at h ⊢
    exact ⟨⟨by omega, h.1.2⟩, h.2⟩

theorem Memory.wf_of_wfAbove {m : Memory} {lo : Nat} (h : Memory.wfAbove m lo = true) : Memory.wf m = true := by
  cases m with
  | nil => rfl
  | cons c rest =>
    obtain ⟨k, b⟩ := c
    simp only [Memory.wfAbove, Memory.wf, Bool.and_eq_true] at h ⊢
    exact ⟨h.1.2, h.2⟩

/-- An address at or below the bound of a canonical list is not listed. -/
theorem Memory.read_of_wfAbove {m : Memory} {lo a : Nat} (h : Memory.wfAbove m lo = true) (ha : a ≤ lo) :
    Memory.read m a = 0#8 := by
  induction m generalizing lo with
  | nil => rfl
  | cons c rest ih =>
    obtain ⟨k, b⟩ := c
    simp only [Memory.wfAbove, Bool.and_eq_true, decide_eq_true_eq] at h
    have : k ≠ a := by omega
    simp only [Memory.read, this, if_false]
    exact ih h.2 (by omega)

theorem Memory.write_wfAbove {m : Memory} {lo a : Nat} {b : Byte} (h : Memory.wfAbove m lo = true) (ha : lo < a) :
    Memory.wfAbove (Memory.write m a b) lo = true := by
  induction m generalizing lo with
  | nil => by_cases hb : b = 0#8 <;> simp [Memory.write, Memory.wfAbove, hb, ha]
  | cons c rest ih =>
    obtain ⟨k, d⟩ := c
    simp only [Memory.wfAbove, Bool.and_eq_true, decide_eq_true_eq] at h
    obtain ⟨⟨hk, hd⟩, hr⟩ := h
    unfold Memory.write
    split
    · split
      · simp [Memory.wfAbove, hk, hd, hr]
      · simp_all [Memory.wfAbove]
    · split
      · split
        · exact Memory.wfAbove_mono (by omega) hr
        · simp_all [Memory.wfAbove]
      · simp only [Memory.wfAbove, Bool.and_eq_true, decide_eq_true_eq]
        exact ⟨⟨hk, hd⟩, ih hr (by omega)⟩

/-- A write keeps the canonical form. -/
theorem Memory.write_wf {m : Memory} {a : Nat} {b : Byte} (h : Memory.wf m = true) :
    Memory.wf (Memory.write m a b) = true := by
  cases m with
  | nil => by_cases hb : b = 0#8 <;> simp [Memory.write, Memory.wf, Memory.wfAbove, hb]
  | cons c rest =>
    obtain ⟨k, d⟩ := c
    simp only [Memory.wf, Bool.and_eq_true] at h
    obtain ⟨hd, hr⟩ := h
    unfold Memory.write
    split
    · split
      · simp [Memory.wf, hd, hr]
      · simp_all [Memory.wf, Memory.wfAbove]
    · split
      · split
        · exact Memory.wf_of_wfAbove hr
        · simp_all [Memory.wf]
      · simp only [Memory.wf, Bool.and_eq_true]
        exact ⟨hd, Memory.write_wfAbove hr (by omega)⟩

/-- A write leaves every other byte, in any list. -/
theorem Memory.read_write_ne (m : Memory) {a k : Nat} (b : Byte) (h : k ≠ a) :
    Memory.read (Memory.write m a b) k = Memory.read m k := by
  induction m with
  | nil => by_cases hb : b = 0#8 <;> simp [Memory.write, Memory.read, hb, Ne.symm h]
  | cons c rest ih =>
    obtain ⟨j, d⟩ := c
    unfold Memory.write
    split
    · split
      · rfl
      · simp [Memory.read, Ne.symm h]
    · split
      · rename_i heq
        have hj : j ≠ k := by omega
        split <;> simp [Memory.read, hj, heq]
      · simp only [Memory.read]
        split
        · rfl
        · exact ih

theorem Memory.read_write_same_above {m : Memory} {lo a : Nat} (b : Byte) (h : Memory.wfAbove m lo = true) :
    Memory.read (Memory.write m a b) a = b := by
  induction m generalizing lo with
  | nil => by_cases hb : b = 0#8 <;> simp [Memory.write, Memory.read, hb]
  | cons c rest ih =>
    obtain ⟨k, d⟩ := c
    simp only [Memory.wfAbove, Bool.and_eq_true, decide_eq_true_eq] at h
    obtain ⟨⟨hk, hd⟩, hr⟩ := h
    unfold Memory.write
    split
    · rename_i hlt
      split
      · rename_i hb
        have hne : k ≠ a := by omega
        simp only [Memory.read, hne, if_false, hb]
        exact Memory.read_of_wfAbove hr (by omega)
      · simp [Memory.read]
    · split
      · rename_i heq
        split
        · rename_i hb
          rw [hb]
          exact Memory.read_of_wfAbove hr (by omega)
        · simp [Memory.read]
      · have hne : k ≠ a := by omega
        simp only [Memory.read, hne, if_false]
        exact ih hr

/-- In canonical form, a read after a write of the same byte gives the value written. -/
theorem Memory.read_write_same {m : Memory} {a : Nat} (b : Byte) (h : Memory.wf m = true) :
    Memory.read (Memory.write m a b) a = b := by
  cases m with
  | nil => by_cases hb : b = 0#8 <;> simp [Memory.write, Memory.read, hb]
  | cons c rest =>
    obtain ⟨k, d⟩ := c
    simp only [Memory.wf, Bool.and_eq_true] at h
    by_cases h0 : 0 < k
    · exact Memory.read_write_same_above (lo := 0) b (by simp [Memory.wfAbove, h0, h.1, h.2])
    · have hk : k = 0 := by omega
      subst hk
      unfold Memory.write
      split
      · omega
      · split
        · rename_i heq
          subst heq
          split
          · rename_i hb
            rw [hb]
            exact Memory.read_of_wfAbove h.2 (by omega)
          · simp [Memory.read]
        · rename_i h1 h2
          simp only [Memory.read, Ne.symm h2, if_false]
          exact Memory.read_write_same_above b h.2

theorem Memory.read_write {m : Memory} (h : Memory.wf m = true) (a k : Nat) (b : Byte) :
    Memory.read (Memory.write m a b) k = if k = a then b else Memory.read m k := by
  by_cases e : k = a
  · subst e; simp [Memory.read_write_same b h]
  · simp [Memory.read_write_ne m b e, e]

/-- A write lists no address but the written one anew. -/
theorem Memory.mem_write {m : Memory} {a : Nat} {b : Byte} {cell : Host.Cell} (h : cell ∈ Memory.write m a b) :
    cell ∈ m ∨ cell.1 = a := by
  induction m with
  | nil =>
    by_cases hb : b = 0#8
    · simp [Memory.write, hb] at h
    · simp [Memory.write, hb] at h
      exact .inr (by simp [h])
  | cons c rest ih =>
    obtain ⟨k, d⟩ := c
    unfold Memory.write at h
    split at h
    · split at h
      · exact .inl h
      · rcases List.mem_cons.mp h with rfl | h
        · exact .inr rfl
        · exact .inl h
    · split at h
      · split at h
        · exact .inl (List.mem_cons_of_mem _ h)
        · rcases List.mem_cons.mp h with rfl | h
          · exact .inr rfl
          · exact .inl (List.mem_cons_of_mem _ h)
      · rcases List.mem_cons.mp h with rfl | h
        · exact .inl (List.mem_cons_self)
        · rcases ih h with h | h
          · exact .inl (List.mem_cons_of_mem _ h)
          · exact .inr h

/-- Reset memory has the canonical form. -/
theorem reset_mem_wf : Memory.wf State.reset.mem = true := rfl

end Sys2Proof.Machine
end

