-- ==== Sys2Proof/Laws/Access.lean ====
section
/-! SUPPORT. What the accessors do: one lemma per operation, cited instead of unfolding it. -/
namespace Sys2Proof.Machine

theorem SameProcessor.refl (s : State) : SameProcessor s s := ⟨rfl, rfl, rfl, rfl, rfl, rfl, rfl, rfl, rfl⟩

theorem SameProcessor.trans {s t u : State} (h : SameProcessor s t) (k : SameProcessor t u) : SameProcessor s u :=
  ⟨k.regs.trans h.regs, k.written.trans h.written, k.isa.trans h.isa, k.mode.trans h.mode, k.vblank.trans h.vblank,
   k.hblank.trans h.hblank, k.scanline.trans h.scanline, k.draws.trans h.draws, k.params.trans h.params⟩

/-- Memory after a protected byte write: the byte stored, or nothing where a parameter keeps it out (R71-R73, R79). -/
theorem storeByte_mem (l : Loc) (b : Byte) (s : State) :
    (storeByte l b s).mem = Memory.write s.mem (resolvedAddr l) b ∨
    (l.region = .io ∧ ioStores s.params l.offset = false ∧ (storeByte l b s).mem = s.mem) := by
  unfold storeByte
  split
  · exact .inl rfl
  · rename_i h
    unfold storeIo storeBackingIf
    cases hp : ioStores s.params l.offset
    · exact .inr ⟨h, rfl, by simp⟩
    · exact .inl (by simp)
  all_goals exact .inl rfl

theorem storeByte_frame (l : Loc) (b : Byte) (s : State) : SameProcessor s (storeByte l b s) := by
  unfold storeByte
  split
  · exact ⟨rfl, rfl, rfl, rfl, rfl, rfl, rfl, rfl, rfl⟩
  · unfold storeIo storeBackingIf
    split <;> exact ⟨rfl, rfl, rfl, rfl, rfl, rfl, rfl, rfl, rfl⟩
  all_goals exact ⟨rfl, rfl, rfl, rfl, rfl, rfl, rfl, rfl, rfl⟩

/-- The display fields after a protected byte write: those of R71-R73 in the I/O block, none elsewhere. -/
theorem storeByte_ds (l : Loc) (b : Byte) (s : State) :
    (storeByte l b s).ds = if l.region = .io then displayAfter l.offset b s.ds else s.ds := by
  unfold storeByte
  split <;> rename_i h <;> simp [h]
  unfold storeIo storeBackingIf
  split <;> rfl

/-- The anomaly log after a protected byte write: one entry more for a ROM byte (R62). -/
theorem storeByte_anomalies (l : Loc) (b : Byte) (s : State) :
    (storeByte l b s).anomalies =
      if l.region = .rom then s.anomalies ++ [{ bus := l.bus, index := l.offset, byte := b }] else s.anomalies := by
  unfold storeByte
  split <;> rename_i h <;> simp [h]
  unfold storeIo storeBackingIf
  split <;> rfl

theorem storeByteRaw_mem (l : Loc) (b : Byte) (s : State) :
    (storeByteRaw l b s).mem = Memory.write s.mem (resolvedAddr l) b := by
  unfold storeByteRaw
  split <;> rfl

theorem storeByteRaw_frame (l : Loc) (b : Byte) (s : State) : SameProcessor s (storeByteRaw l b s) := by
  unfold storeByteRaw
  split <;> exact ⟨rfl, rfl, rfl, rfl, rfl, rfl, rfl, rfl, rfl⟩

/-- An unprotected write changes no display field (R84). -/
theorem storeByteRaw_ds (l : Loc) (b : Byte) (s : State) : (storeByteRaw l b s).ds = s.ds := by
  unfold storeByteRaw
  split <;> rfl

theorem storeByteRaw_anomalies (l : Loc) (b : Byte) (s : State) :
    (storeByteRaw l b s).anomalies =
      if l.region = .rom then s.anomalies ++ [{ bus := l.bus, index := l.offset, byte := b }] else s.anomalies := by
  unfold storeByteRaw
  split <;> rename_i h <;> simp [h]

/-- Memory after a span is written to distinct bytes: each holds its byte of the value, and every other is as before. -/
theorem storeAll_mem {store : Loc → Byte → State → State} {ls : List Loc} {p : Params}
    (hst : ∀ l ∈ ls, ∀ b t, t.params = p →
      (store l b t).mem = Memory.write t.mem (resolvedAddr l) b ∧ (store l b t).params = p)
    (hnd : (ls.map resolvedAddr).Nodup) (v : Word) (s : State) (hp : s.params = p) (hwf : Memory.wf s.mem = true) :
    (∀ k, (hk : k < ls.length) →
      Memory.read (storeAll store ls v s).mem (resolvedAddr ls[k]) = (v >>> (8 * k)).setWidth 8) ∧
    (∀ a, a ∉ ls.map resolvedAddr → Memory.read (storeAll store ls v s).mem a = Memory.read s.mem a) := by
  induction ls generalizing v s with
  | nil => exact ⟨fun k hk => absurd hk (by simp), fun _ _ => rfl⟩
  | cons l rest ih =>
    obtain ⟨hl, hpl⟩ := hst l List.mem_cons_self (v.setWidth 8) s hp
    rw [List.map_cons, List.nodup_cons] at hnd
    obtain ⟨i1, i2⟩ := ih (fun l' h' => hst l' (List.mem_cons_of_mem _ h')) hnd.2 (v >>> 8) (store l (v.setWidth 8) s) hpl
      (by rw [hl]; exact Memory.write_wf hwf)
    refine ⟨fun k hk => ?_, fun a ha => ?_⟩
    · cases k with
      | zero =>
        change Memory.read (storeAll store rest _ _).mem (resolvedAddr l) = _
        rw [i2 _ hnd.1, hl, Memory.read_write hwf]
        simp
      | succ k =>
        have hk' : k < rest.length := by simpa using hk
        change Memory.read (storeAll store rest _ _).mem (resolvedAddr rest[k]) = _
        rw [i1 k hk', ← BitVec.shiftRight_add]
        congr 2; omega
    · rw [List.map_cons, List.mem_cons, not_or] at ha
      change Memory.read (storeAll store rest _ _).mem a = _
      rw [i2 a ha.2, hl, Memory.read_write_ne _ _ ha.1]

/-- A property that every single byte write of a span keeps is kept by the whole write. -/
theorem storeAll_induct {store : Loc → Byte → State → State} {P : State → Prop} {ls : List Loc}
    (hstep : ∀ l ∈ ls, ∀ b s, P s → P (store l b s)) (v : Word) (s : State) (h : P s) : P (storeAll store ls v s) := by
  induction ls generalizing v s with
  | nil => exact h
  | cons l rest ih =>
    exact ih (fun l' hl' => hstep l' (List.mem_cons_of_mem _ hl')) _ _ (hstep l (List.mem_cons_self) _ _ h)

/-- What `memWrite` answers (R81, R86). -/
theorem memWrite_cases (a : Word) (w : Width) (v : Word) (s : State) :
    (∃ e, spanOf (resolve s.params) a w.bytes = .error e ∧ memWrite a w v s = .error e) ∨
    ∃ ls, spanOf (resolve s.params) a w.bytes = .ok ls ∧ memWrite a w v s = .ok (storeAll storeByte ls v s) := by
  unfold memWrite
  cases spanOf (resolve s.params) a w.bytes with
  | error e => exact .inl ⟨e, rfl, rfl⟩
  | ok ls => exact .inr ⟨ls, rfl, rfl⟩

/-- What `rawWrite` answers (R84, R86). -/
theorem rawWrite_cases (a : Word) (w : Width) (v : Word) (s : State) :
    (∃ e, spanOf (rawResolve s.params) a w.bytes = .error e ∧ rawWrite a w v s = .error e) ∨
    ∃ ls, spanOf (rawResolve s.params) a w.bytes = .ok ls ∧
      rawWrite a w v s = .ok (storeAll storeByteRaw ls v s) := by
  unfold rawWrite
  cases spanOf (rawResolve s.params) a w.bytes with
  | error e => exact .inl ⟨e, rfl, rfl⟩
  | ok ls => exact .inr ⟨ls, rfl, rfl⟩

/-- What `memRead` answers (R80). -/
theorem memRead_cases (a : Word) (w : Width) (s : State) :
    (∃ e, spanOf (resolve s.params) a w.bytes = .error e ∧ memRead a w s = .error e) ∨
    ∃ ls, spanOf (resolve s.params) a w.bytes = .ok ls ∧
      memRead a w s = .ok (leWord (ls.map fun l => loadByte l s)) := by
  unfold memRead
  cases spanOf (resolve s.params) a w.bytes with
  | error e => exact .inl ⟨e, rfl, rfl⟩
  | ok ls => exact .inr ⟨ls, rfl, rfl⟩

/-- What `rawRead` answers (R84). -/
theorem rawRead_cases (a : Word) (w : Width) (s : State) :
    (∃ e, spanOf (rawResolve s.params) a w.bytes = .error e ∧ rawRead a w s = .error e) ∨
    ∃ ls, spanOf (rawResolve s.params) a w.bytes = .ok ls ∧
      rawRead a w s = .ok (leWord (ls.map fun l => backingByte l s)) := by
  unfold rawRead
  cases spanOf (rawResolve s.params) a w.bytes with
  | error e => exact .inl ⟨e, rfl, rfl⟩
  | ok ls => exact .inr ⟨ls, rfl, rfl⟩

/-- A read depends on memory, the display inputs and the parameters alone. -/
theorem loadByte_congr {s t : State} (hm : t.mem = s.mem) (hv : t.vblank = s.vblank) (hh : t.hblank = s.hblank)
    (hl : t.scanline = s.scanline) (l : Loc) : loadByte l t = loadByte l s := by
  simp only [loadByte, dispstatByte, backingByte, hm, hv, hh, hl]

theorem readByteP_congr {s t : State} (hm : t.mem = s.mem) (hv : t.vblank = s.vblank) (hh : t.hblank = s.hblank)
    (hl : t.scanline = s.scanline) (hp : t.params = s.params) (a : Word) : readByteP a t = readByteP a s := by
  simp only [readByteP, hp, loadByte_congr hm hv hh hl]

theorem rawRead_congr {s t : State} (hm : t.mem = s.mem) (hp : t.params = s.params) (a : Word) (w : Width) :
    rawRead a w t = rawRead a w s := by
  simp only [rawRead, backingByte, hm, hp]

/-- Only the low WAITCNT byte changes the cycle costs (R73). -/
theorem displayAfter_wait (o : Nat) (b : Byte) (ds : DisplayStatus) :
    (displayAfter o b ds).wsN = (if o = 0x204 then waitN b else ds.wsN) ∧
    (displayAfter o b ds).wsS = (if o = 0x204 then waitS b else ds.wsS) := by
  unfold displayAfter
  split
  · simp_all [dispcntLow]
  · split
    · simp_all [dispcntHigh]
    · split
      · rename_i h
        have : o ≠ 0x204 := by omega
        simp [updateBg, this]
      · split <;> simp_all

/-! ## One byte of storage -/

/-- An unprotected byte read at a canonical address is the backing byte (R84). -/
theorem rawRead_byte {a : Word} {s : State} {l : Loc} (h : rawResolve s.params a = .ok l) :
    rawRead a .byte s = .ok ((Memory.read s.mem a.toNat).setWidth 32) := by
  unfold rawRead
  simp only [Width.bytes, spanOf, h, List.map_cons, List.map_nil, leWord, backingByte, (rawResolve_ok h).2.2]
  congr 1
  simp

theorem rawRead_byte_error {a : Word} {s : State} {e : PortFault} (h : rawResolve s.params a = .error e) :
    rawRead a .byte s = .error e := by
  unfold rawRead
  simp only [Width.bytes, spanOf, h]

/-- Where memory changes at most at `a`, every other byte of storage reads as before. -/
theorem OtherBytesSame.of_write {s t : State} {a : Word} {b : Byte} (hp : t.params = s.params)
    (hm : t.mem = Memory.write s.mem a.toNat b ∨ t.mem = s.mem) : OtherBytesSame a s t := by
  intro x hx
  have hne : x.toNat ≠ a.toNat := fun e => hx (BitVec.eq_of_toNat_eq e)
  rcases rawResolve_cases s.params x with h | ⟨l, h, _⟩
  · rw [rawRead_byte_error h, rawRead_byte_error (hp ▸ h)]
  · rw [rawRead_byte h, rawRead_byte (l := l) (hp ▸ h)]
    rcases hm with e | e <;> rw [e]
    rw [Memory.read_write_ne _ _ hne]

/-- The I/O block is its own primary copy: both paths reach the same byte (R58, R83). -/
theorem resolve_io {p : Params} {a : Word} {o : Nat} (ha : a.toNat = 0x04000000 + o) (ho : o < 0x400) :
    resolve p a = .ok ⟨a, .io, o⟩ ∧ rawResolve p a = .ok ⟨a, .io, o⟩ := by
  constructor
  · unfold resolve
    rw [show a.toNat / 0x1000000 = 4 by omega]
    simp only [show a.toNat < 0x04000400 by omega, if_true]
    rw [show a.toNat - 0x04000000 = o by omega]
  · have out : ∀ r, (a.toNat < regionBase r ∨ regionBase r + regionSize p r ≤ a.toNat) → inPrimary p r a = false := by
      intro r h
      unfold inPrimary
      rcases h with h | h
      · simp [Nat.not_le.mpr h]
      · simp [Nat.not_lt.mpr h]
    have inn : inPrimary p .io a = true := by
      unfold inPrimary
      rw [decide_eq_true (by simp only [regionBase]; omega), decide_eq_true (by simp only [regionBase, regionSize]; omega)]
      rfl
    unfold rawResolve
    rw [out .boot (.inr (by simp only [regionBase, regionSize]; omega)),
      out .wram1 (.inr (by simp only [regionBase, regionSize]; omega)),
      out .wram2 (.inr (by simp only [regionBase, regionSize]; omega)), inn,
      if_neg Bool.false_ne_true, if_neg Bool.false_ne_true, if_neg Bool.false_ne_true, if_pos rfl]
    have ho' : a.toNat - regionBase .io = o := by simp only [regionBase]; omega
    rw [ho']

/-- A background write changes that background alone (R72). -/
theorem updateBg_get (n k : Fin 4) (f : BgControl → BgControl) (ds : DisplayStatus) :
    (updateBg n f ds).bg[k] = if k = n then f ds.bg[n] else ds.bg[k] := by
  by_cases h : k = n
  · subst h; simp [updateBg]
  · have h' : (n : Nat) ≠ k := fun e => h (Fin.ext e.symm)
    simp [updateBg, h, Vector.getElem_set_ne, h']

/-- A write of a BGnCNT byte is an update of one background: the low byte's fields at an even offset, the high byte's at an
odd one (R72, R79). -/
theorem displayAfter_bgcnt {o : Nat} (b : Byte) (ds : DisplayStatus) (h1 : 0x008 ≤ o) (h2 : o ≤ 0x00F) :
    displayAfter o b ds = updateBg (bgIndex o) (if o % 2 = 0 then bgcntLow b else bgcntHigh b) ds := by
  unfold displayAfter
  rw [if_neg (by omega), if_neg (by omega), if_pos ⟨h1, h2⟩]

end Sys2Proof.Machine
end

