-- ==== Sys2Proof/Laws/Bytes.lean ====
section
/-! SUPPORT. Words and their bytes: what `leWord`, `leBytes` and `lowBytes` are, bit by bit (20_memory.md R80, R81, R87). -/
namespace Sys2Proof

theorem leWord_cons_getLsbD (b : Byte) (bs : List Byte) (j : Nat) :
    (leWord (b :: bs)).getLsbD j =
      if j < 8 then b.getLsbD j else (decide (j < 32) && (leWord bs).getLsbD (j - 8)) := by
  simp only [leWord, BitVec.getLsbD_or, BitVec.getLsbD_setWidth, BitVec.getLsbD_shiftLeft]
  by_cases h : j < 8
  · simp [h]; omega
  · simp [h, BitVec.getLsbD_of_ge b j (by omega)]

/-- Byte `k` of a composed word, for a word of at most four bytes. -/
theorem leWord_byte (bs : List Byte) (k : Nat) (hk : k < 4) :
    (leWord bs >>> (8 * k)).setWidth 8 = (bs[k]?).getD 0#8 := by
  apply BitVec.eq_of_getLsbD_eq
  intro j hj
  rw [BitVec.getLsbD_setWidth, BitVec.getLsbD_ushiftRight]
  simp only [hj, decide_true, Bool.true_and]
  induction bs generalizing k with
  | nil => simp [leWord]
  | cons b bs ih =>
    rw [leWord_cons_getLsbD]
    cases k with
    | zero => simp [hj]
    | succ k =>
      have e : 8 * (k + 1) + j - 8 = 8 * k + j := by omega
      rw [if_neg (by omega), e, ih k (by omega)]
      have : 8 * (k + 1) + j < 32 := by omega
      simp [this]

/-- A word is its four bytes. -/
theorem word_ext_bytes {v w : Word} (h : ∀ k, k < 4 → (v >>> (8 * k)).setWidth 8 = (w >>> (8 * k)).setWidth 8) :
    v = w := by
  apply BitVec.eq_of_getLsbD_eq
  intro j hj
  have hb := congrArg (fun x : BitVec 8 => x.getLsbD (j % 8)) (h (j / 8) (by omega))
  have hm : j % 8 < 8 := by omega
  simp only [BitVec.getLsbD_setWidth, BitVec.getLsbD_ushiftRight, hm, decide_true, Bool.true_and] at hb
  have e : 8 * (j / 8) + j % 8 = j := by omega
  rwa [e] at hb

namespace Machine

/-- Byte `k` of what an access of width `w` carries. -/
theorem lowBytes_byte (w : Width) (v : Word) (k : Nat) (hk : k < 4) :
    (lowBytes w v >>> (8 * k)).setWidth 8 = if k < w.bytes then (v >>> (8 * k)).setWidth 8 else 0#8 := by
  by_cases h : k < w.bytes
  · rw [if_pos h]
    apply BitVec.eq_of_getLsbD_eq
    intro j hj
    cases w <;> simp only [Width.bytes] at h <;>
      simp only [lowBytes, BitVec.getLsbD_setWidth, BitVec.getLsbD_ushiftRight, hj, decide_true, Bool.true_and]
    · simp [show 8 * k + j < 8 by omega, show 8 * k + j < 32 by omega]
    · simp [show 8 * k + j < 16 by omega, show 8 * k + j < 32 by omega]
  · rw [if_neg h]
    apply BitVec.eq_of_getLsbD_eq
    intro j hj
    cases w <;> simp only [Width.bytes] at h <;>
      simp only [lowBytes, BitVec.getLsbD_setWidth, BitVec.getLsbD_ushiftRight, hj, decide_true, Bool.true_and]
    · simp [show ¬ 8 * k + j < 8 by omega]
    · simp [show ¬ 8 * k + j < 16 by omega]
    · omega

theorem Width.bytes_le (w : Width) : w.bytes ≤ 4 := by cases w <;> decide

/-- A composed word is what its bytes are the low bytes of. -/
theorem leWord_eq_lowBytes (w : Width) (v : Word) (bs : List Byte) (hl : bs.length = w.bytes) :
    leWord bs = lowBytes w v ↔ ∀ k, (hk : k < bs.length) → bs[k] = (v >>> (8 * k)).setWidth 8 := by
  have hw := Width.bytes_le w
  constructor
  · intro h k hk
    have := congrArg (fun x : Word => (x >>> (8 * k)).setWidth 8) h
    simp only [leWord_byte bs k (by omega), lowBytes_byte w v k (by omega)] at this
    rw [if_pos (by omega), List.getElem?_eq_getElem hk] at this
    exact this
  · intro h
    apply word_ext_bytes
    intro k hk
    rw [leWord_byte bs k hk, lowBytes_byte w v k hk]
    split
    · rename_i hb
      have hk' : k < bs.length := by omega
      rw [List.getElem?_eq_getElem hk']
      exact h k hk'
    · rw [List.getElem?_eq_none (by omega)]; rfl

end Machine

/-- Laying a word out and reading it back. -/
theorem leWord_leBytes_word (w : Word) : leWord (leBytes w 4) = w := by
  have h := (Machine.leWord_eq_lowBytes .word w (leBytes w 4) rfl).mpr
  refine h fun k hk => ?_
  have hk4 : k < 4 := hk
  rcases (by omega : k = 0 ∨ k = 1 ∨ k = 2 ∨ k = 3) with rfl | rfl | rfl | rfl <;>
    apply BitVec.eq_of_getLsbD_eq <;> intro j hj <;> simp [leBytes, hj]

end Sys2Proof
end

