-- ==== Sys2Proof/Laws/Encode.lean ====
section
/-! SUPPORT. Fields put in a word: what a mask and a bit read see of them, and the condition codes. -/
namespace Sys2Proof

theorem put_getLsbD {k : Nat} (x : BitVec k) (lo j : Nat) :
    (put x lo).getLsbD j = (decide (j < 32) && decide (lo ≤ j) && x.getLsbD (j - lo)) := by
  unfold put
  rw [BitVec.getLsbD_shiftLeft, BitVec.getLsbD_setWidth]
  by_cases h : j < lo
  · simp [h]
  · by_cases h2 : j < 32
    · have : j - lo < 32 := by omega
      simp [h, h2, this, Nat.not_lt.mp h]
    · simp [h2]

theorem putBit_getLsbD (x : Bool) (lo j : Nat) :
    (putBit x lo).getLsbD j = (decide (j < 32) && decide (j = lo) && x) := by
  change (put (BitVec.ofBool x) lo).getLsbD j = _
  rw [put_getLsbD, BitVec.getLsbD_ofBool]
  by_cases h : j = lo
  · subst h; simp
  · by_cases h2 : lo ≤ j
    · have : ¬ j - lo = 0 := by omega
      simp [h, this]
    · simp [h, h2]

/-- A field that stands outside a mask is not seen through it. -/
theorem put_and_mask {k : Nat} {x : BitVec k} {lo : Nat} {mask : Word}
    (h : (mask >>> lo) &&& ((BitVec.allOnes k).setWidth 32) = 0#32) : put x lo &&& mask = 0#32 := by
  apply BitVec.eq_of_getLsbD_eq
  intro j hj
  rw [BitVec.getLsbD_and, put_getLsbD]
  by_cases hl : lo ≤ j
  · by_cases hk : j - lo < k
    · have := congrArg (fun w : Word => w.getLsbD (j - lo)) h
      have e : lo + (j - lo) = j := by omega
      have h32 : j - lo < 32 := by omega
      simp [e, hk, h32] at this
      simp [this]
    · simp [BitVec.getLsbD_of_ge _ _ (Nat.not_lt.mp hk)]
  · simp [hl]

theorem putBit_and_mask {x : Bool} {lo : Nat} {mask : Word} (h : (mask >>> lo) &&& 1#32 = 0#32) :
    putBit x lo &&& mask = 0#32 :=
  put_and_mask (x := BitVec.ofBool x) (by simpa using h)

theorem or_and_mask (x y mask : Word) : (x ||| y) &&& mask = (x &&& mask) ||| (y &&& mask) := by
  apply BitVec.eq_of_getLsbD_eq
  intro j _
  simp only [BitVec.getLsbD_and, BitVec.getLsbD_or, Bool.and_or_distrib_right]

@[simp] theorem Cond.ofCode_code (c : Cond) : Cond.ofCode c.code = c := by cases c <;> rfl

@[simp] theorem Cond.code_ofCode (k : BitVec 4) : (Cond.ofCode k).code = k := by revert k; decide

theorem Cond.code_inj {c d : Cond} (h : c.code = d.code) : c = d := by
  rw [← Cond.ofCode_code c, h, Cond.ofCode_code]

end Sys2Proof
end

