-- ==== Sys2Proof/Laws/Exec.lean ====
section
/-! SUPPORT. What the condition stage, the handlers and the step answer: one lemma each, from which invariants follow. -/
namespace Sys2Proof.Machine

/-! ## The condition stage -/

/-- The flags a list names are all written, or the first one that is not is found. -/
theorem firstUnwritten_none {fs : List Flag} {s : State} :
    firstUnwritten fs s = none ↔ ∀ f ∈ fs, s.written.getFlag s.mode f = true := by
  induction fs with
  | nil => simp [firstUnwritten]
  | cons f rest ih =>
    unfold firstUnwritten
    cases h : s.written.getFlag s.mode f <;> simp [h, ih]

/-- What the condition stage answers (40_dispatch.md R138): the flags it reads are written and the predicate decides, or
the first unwritten one is reported (10_state.md R45). -/
theorem evalCond_cases (c : Cond) (s : State) :
    ((∀ f ∈ flagsRead c, s.written.getFlag s.mode f = true) ∧ evalCond c s = .ok (conditionMet c (activeFlags s))) ∨
    ∃ f ∈ flagsRead c, s.written.getFlag s.mode f = false ∧ firstUnwritten (flagsRead c) s = some f ∧
      evalCond c s = .error (.unwrittenRead (.flag s.mode f)) := by
  unfold evalCond
  cases h : firstUnwritten (flagsRead c) s with
  | none => exact .inl ⟨firstUnwritten_none.mp h, rfl⟩
  | some f =>
    refine .inr ⟨f, ?_, ?_, rfl, rfl⟩
    · revert h
      generalize flagsRead c = fs
      intro h
      induction fs with
      | nil => simp [firstUnwritten] at h
      | cons g rest ih =>
        unfold firstUnwritten at h
        split at h
        · exact List.mem_cons_of_mem _ (ih h)
        · cases h; exact List.mem_cons_self
    · revert h
      generalize flagsRead c = fs
      intro h
      induction fs with
      | nil => simp [firstUnwritten] at h
      | cons g rest ih =>
        unfold firstUnwritten at h
        split at h
        · exact ih h
        · rename_i hw
          cases h
          simpa using hw

theorem whenCondition_passes {c : Cond} {s : State} (h : evalCond c s = .ok true) (r : Result) :
    whenCondition c s r = r := by
  unfold whenCondition
  rw [h]

theorem whenCondition_fails {c : Cond} {s : State} (h : evalCond c s = .ok false) (r : Result) :
    whenCondition c s r = .next (advance (pcOf s) s) := by
  unfold whenCondition
  rw [h]

theorem whenCondition_unwritten {c : Cond} {s : State} {e : Fault} (h : evalCond c s = .error e) (r : Result) :
    whenCondition c s r = .fault e := by
  unfold whenCondition
  rw [h]

/-- If the condition stage ends in a next state, the condition failed and the counter advanced, or it passed and the
handler gave that state. -/
theorem whenCondition_next {c : Cond} {s t : State} {r : Result} (h : whenCondition c s r = .next t) :
    (evalCond c s = .ok false ∧ t = advance (pcOf s) s) ∨ (evalCond c s = .ok true ∧ r = .next t) := by
  unfold whenCondition at h
  split at h
  · cases h
  · rename_i hc; cases h; exact .inl ⟨hc, rfl⟩
  · rename_i hc; exact .inr ⟨hc, h⟩

/-- A Wide class with no handler ends in a next state only where its condition fails (43_unimplemented.md R173). -/
theorem wideUnimplemented_next {cls : WideClass} {c : Cond} {w : Word} {s t : State}
    (h : wideUnimplemented cls c w s = .next t) : evalCond c s = .ok false ∧ t = advance (pcOf s) s := by
  rcases whenCondition_next h with h | ⟨_, h⟩
  · exact h
  · cases h

/-! ## The handlers -/

/-- What the six instructions with a handler do when their condition passes (40_dispatch.md R136). -/
inductive Handled : Instr → State → State → Prop
  | b (c : Cond) (off : BitVec 24) (s : State) : Handled (.b c off) s (setPc (branchTarget off s) s)
  | bl (c : Cond) (off : BitVec 24) (s : State) :
      Handled (.bl c off) s (setPc (branchTarget off s) (writeReg 14 (pcOf s + 4) s))
  | bx (c : Cond) (rm : Reg) (s : State) (hr : rm ≠ 15) (hw : isWritten (.reg (regSlot s.mode rm)) s = true) :
      Handled (.bx c rm) s (exchangeTo (readReg rm s) s)
  | bx15 (c : Cond) (s : State) : Handled (.bx c 15) s (invalidExchange s)
  | bxR15 (c : Cond) (s : State) : Handled (.bxR15 c) s (invalidExchange s)
  | mul (c : Cond) (f : MulFields) (s : State) (hm : isWritten (.reg (regSlot s.mode f.rm)) s = true)
      (hs : isWritten (.reg (regSlot s.mode f.rs)) s = true) :
      Handled (.mul c f) s (writeProduct f (readReg f.rm s * readReg f.rs s) s)
  | mla (c : Cond) (f : MulFields) (s : State) (hm : isWritten (.reg (regSlot s.mode f.rm)) s = true)
      (hs : isWritten (.reg (regSlot s.mode f.rs)) s = true) (hn : isWritten (.reg (regSlot s.mode f.rn)) s = true) :
      Handled (.mla c f) s (writeProduct f (readReg f.rm s * readReg f.rs s + readReg f.rn s) s)

/-- If `exec` answers a next state, the instruction is Wide, and either its condition failed and only the counter advanced,
or its condition passed and its handler did what `Handled` says. -/
theorem exec_next {i : Instr} {s t : State} (h : exec i s = .next t) :
    ∃ c, i.cond = some c ∧
      ((evalCond c s = .ok false ∧ t = advance (pcOf s) s) ∨ (evalCond c s = .ok true ∧ Handled i s t)) := by
  cases i
  case b c off =>
    rcases whenCondition_next h with h | ⟨hc, h⟩
    · exact ⟨c, rfl, .inl h⟩
    · cases h; exact ⟨c, rfl, .inr ⟨hc, .b c off s⟩⟩
  case bl c off =>
    rcases whenCondition_next h with h | ⟨hc, h⟩
    · exact ⟨c, rfl, .inl h⟩
    · cases h; exact ⟨c, rfl, .inr ⟨hc, .bl c off s⟩⟩
  case bx c rm =>
    rcases whenCondition_next h with h | ⟨hc, h⟩
    · exact ⟨c, rfl, .inl h⟩
    · split at h
      · rename_i e; cases h; subst e; exact ⟨c, rfl, .inr ⟨hc, .bx15 c s⟩⟩
      · rename_i e
        rcases readChecked_eq rm s with ⟨hw, hr⟩ | ⟨_, hr⟩ <;> rw [hr] at h <;> cases h
        exact ⟨c, rfl, .inr ⟨hc, .bx c rm s e hw⟩⟩
  case bxR15 c =>
    rcases whenCondition_next h with h | ⟨hc, h⟩
    · exact ⟨c, rfl, .inl h⟩
    · cases h; exact ⟨c, rfl, .inr ⟨hc, .bxR15 c s⟩⟩
  case mul c f =>
    rcases whenCondition_next h with h | ⟨hc, h⟩
    · exact ⟨c, rfl, .inl h⟩
    · rcases readChecked_eq f.rm s with ⟨hm, er⟩ | ⟨_, er⟩ <;> rw [er] at h <;> try cases h
      rcases readChecked_eq f.rs s with ⟨hs, er⟩ | ⟨_, er⟩ <;> simp only [er] at h <;> cases h
      exact ⟨c, rfl, .inr ⟨hc, .mul c f s hm hs⟩⟩
  case mla c f =>
    rcases whenCondition_next h with h | ⟨hc, h⟩
    · exact ⟨c, rfl, .inl h⟩
    · rcases readChecked_eq f.rm s with ⟨hm, er⟩ | ⟨_, er⟩ <;> rw [er] at h <;> try cases h
      rcases readChecked_eq f.rs s with ⟨hs, er⟩ | ⟨_, er⟩ <;> simp only [er] at h <;> try cases h
      rcases readChecked_eq f.rn s with ⟨hn, er⟩ | ⟨_, er⟩ <;> simp only [er] at h <;> cases h
      exact ⟨c, rfl, .inr ⟨hc, .mla c f s hm hs hn⟩⟩
  -- every Narrow instruction: refused (40_dispatch.md R137)
  all_goals first
    | (exfalso; cases h)
    | exact ⟨_, rfl, .inl (wideUnimplemented_next h)⟩

/-! ## The step -/

/-- If the step answers a next state, it fetched an instruction and `exec` gave that state (40_dispatch.md R138). -/
theorem step_next {s t : State} (h : step s = .next t) : ∃ i, fetch s = .ok i ∧ exec i s = .next t := by
  unfold step at h
  split at h
  · cases h
  · rename_i i hi; exact ⟨i, hi, h⟩

/-- The step after a fetch is `exec` of the fetched instruction. -/
theorem step_of_fetch {s : State} {i : Instr} (h : fetch s = .ok i) : step s = exec i s := by
  unfold step
  rw [h]

theorem step_of_fetch_error {s : State} {e : Fault} (h : fetch s = .error e) : step s = .fault e := by
  unfold step
  rw [h]

end Sys2Proof.Machine
end

