-- ==== Sys2Proof/Laws/Frames.lean ====
section
/-! SUPPORT. What each named update leaves as it was, in the terms of Sys2Proof/Safety.lean, and all that a multiply does. -/
namespace Sys2Proof.Machine

/-! ## Parts of a state -/

/-- Two states with the same memory, inputs, display fields, anomalies and parameters share the memory side. -/
theorem SameMemorySide.of_fields {s t : State} (hm : t.mem = s.mem) (hds : t.ds = s.ds) (hv : t.vblank = s.vblank)
    (hh : t.hblank = s.hblank) (hl : t.scanline = s.scanline) (ha : t.anomalies = s.anomalies)
    (hp : t.params = s.params) : SameMemorySide s t :=
  ⟨hm, readByteP_congr hm hv hh hl hp, fun a => rawRead_congr hm hp a .byte, hds, hv, hh, hl, ha, hp⟩

theorem SameMemorySide.refl (s : State) : SameMemorySide s s :=
  .of_fields rfl rfl rfl rfl rfl rfl rfl

theorem SameMemorySide.trans {s t u : State} (h : SameMemorySide s t) (k : SameMemorySide t u) : SameMemorySide s u :=
  .of_fields (k.mem.trans h.mem) (k.ds.trans h.ds) (k.vblank.trans h.vblank) (k.hblank.trans h.hblank)
    (k.scanline.trans h.scanline) (k.anomalies.trans h.anomalies) (k.params.trans h.params)

theorem SameReg.refl (s : State) (r : RegSlot) : SameReg s s r := ⟨rfl, rfl⟩

theorem SameReg.trans {s t u : State} {r : RegSlot} (h : SameReg s t r) (k : SameReg t u r) : SameReg s u r :=
  ⟨k.1.trans h.1, k.2.trans h.2⟩

theorem SameFlag.refl (s : State) (m : Mode) (f : Flag) : SameFlag s s m f := ⟨rfl, rfl⟩

theorem SameFlag.trans {s t u : State} {m : Mode} {f : Flag} (h : SameFlag s t m f) (k : SameFlag t u m f) :
    SameFlag s u m f :=
  ⟨k.1.trans h.1, k.2.trans h.2⟩

theorem OnlyRegsChange.trans {rs qs : List RegSlot} {s t u : State} (h : OnlyRegsChange rs s t)
    (k : OnlyRegsChange qs t u) (hr : ∀ r, r ∈ rs → r ∈ qs) : OnlyRegsChange qs s u :=
  ⟨h.side.trans k.side, fun r hq => (h.regs r fun hm => hq (hr r hm)).trans (k.regs r hq),
   fun m f => (h.flags m f).trans (k.flags m f)⟩

/-! ## Register and flag writes -/

/-- A register write changes the register's slot and nothing else (10_state.md R23). -/
theorem writeReg_only (i : Reg) (v : Word) (s : State) : OnlyRegsChange [regSlot s.mode i] s (writeReg i v s) := by
  refine ⟨.of_fields rfl rfl rfl rfl rfl rfl rfl, fun r hr => ?_, fun m f => ?_⟩
  · have hne : r ≠ regSlot s.mode i := by simpa using hr
    exact ⟨RegFile.getReg_setReg_ne _ hne v, RegFile.getReg_setReg_ne _ hne true⟩
  · exact ⟨RegFile.getFlag_setReg _ _ _ _ _, RegFile.getFlag_setReg _ _ _ _ _⟩

theorem writeReg_modes (i : Reg) (v : Word) (s : State) : SameModes s (writeReg i v s) := ⟨rfl, rfl, rfl⟩

/-- A write to the counter changes the counter and nothing else. -/
theorem setPc_only (v : Word) (s : State) : OnlyRegsChange [.gpr15] s (setPc v s) := writeReg_only 15 v s

theorem setPc_modes (v : Word) (s : State) : SameModes s (setPc v s) := ⟨rfl, rfl, rfl⟩

/-- A flag write sets that flag of the active bank, with its mark (10_state.md R28, R45). -/
theorem setFlag_same (f : Flag) (b : Bool) (s : State) :
    getFlag f (setFlag f b s) = b ∧ (setFlag f b s).written.getFlag s.mode f = true := by
  constructor <;> simp [getFlag, RegFile.getFlag_setFlag]

/-- A flag write leaves every other flag of every bank. -/
theorem setFlag_other {f g : Flag} {m : Mode} (b : Bool) (s : State) (h : m ≠ s.mode ∨ g ≠ f) :
    SameFlag s (setFlag f b s) m g := by
  have hn : ¬ (m = s.mode ∧ g = f) := fun ⟨e, k⟩ => h.elim (fun x => x e) (fun x => x k)
  constructor <;> simp only [setFlag_regs, setFlag_written, RegFile.getFlag_setFlag, if_neg hn]

/-- A flag write leaves every register. -/
theorem setFlag_reg (f : Flag) (b : Bool) (s : State) (r : RegSlot) : SameReg s (setFlag f b s) r :=
  ⟨RegFile.getReg_setFlag _ _ _ _ _, RegFile.getReg_setFlag _ _ _ _ _⟩

theorem setFlag_side (f : Flag) (b : Bool) (s : State) : SameMemorySide s (setFlag f b s) :=
  .of_fields rfl rfl rfl rfl rfl rfl rfl

/-! ## The multiply flag rule -/

/-- What a flag-setting multiply's flag rule leaves: everything but the four flags of the active bank and the draw counter. -/
structure FlagsOnly (s t : State) : Prop where
  regs : ∀ r, SameReg s t r
  others : ∀ m f, m ≠ s.mode → SameFlag s t m f
  side : SameMemorySide s t
  mode : t.mode = s.mode
  isa : t.isa = s.isa

theorem FlagsOnly.refl (s : State) : FlagsOnly s s := ⟨.refl s, fun m f _ => .refl s m f, .refl s, rfl, rfl⟩

theorem FlagsOnly.trans {s t u : State} (h : FlagsOnly s t) (k : FlagsOnly t u) : FlagsOnly s u :=
  ⟨fun r => (h.regs r).trans (k.regs r), fun m f hm => (h.others m f hm).trans (k.others m f (h.mode ▸ hm)),
   h.side.trans k.side, k.mode.trans h.mode, k.isa.trans h.isa⟩

theorem setFlag_flagsOnly (f : Flag) (b : Bool) (s : State) : FlagsOnly s (setFlag f b s) :=
  ⟨setFlag_reg f b s, fun _ _ hm => setFlag_other b s (.inl hm), setFlag_side f b s, rfl, rfl⟩

theorem setDraws_flagsOnly (n : Nat) (s : State) : FlagsOnly s { s with draws := n } :=
  ⟨.refl s, fun m f _ => .refl s m f, .of_fields rfl rfl rfl rfl rfl rfl rfl, rfl, rfl⟩

theorem multiplyCV_flagsOnly (s : State) : FlagsOnly s (multiplyCV s) := by
  unfold multiplyCV
  split
  · exact ((setFlag_flagsOnly .c _ s).trans (setFlag_flagsOnly .v _ _)).trans (setDraws_flagsOnly _ _)
  · exact .refl s

theorem multiplyFlags_flagsOnly (res : Word) (s : State) : FlagsOnly s (multiplyFlags res s) :=
  ((setFlag_flagsOnly .n _ s).trans (setFlag_flagsOnly .z _ _)).trans (multiplyCV_flagsOnly _)

/-- C and V under DRAW are written with the next two free values; under PRESERVE nothing happens (42_multiply.md R163). -/
theorem multiplyCV_values (s : State) :
    (s.params.mulCV = .preserve → multiplyCV s = s) ∧
    (s.params.mulCV = .draw → getFlag .c (multiplyCV s) = Config.freeFlag s.draws ∧
      getFlag .v (multiplyCV s) = Config.freeFlag (s.draws + 1) ∧ (multiplyCV s).draws = s.draws + 2 ∧
      (multiplyCV s).written.getFlag s.mode .c = true ∧ (multiplyCV s).written.getFlag s.mode .v = true) ∧
    (∀ f, f = .n ∨ f = .z → SameFlag s (multiplyCV s) s.mode f) := by
  refine ⟨fun h => by unfold multiplyCV; rw [h], fun h => ?_, fun f hf => ?_⟩
  · unfold multiplyCV
    rw [h]
    simp [getFlag, RegFile.getFlag_setFlag]
  · unfold multiplyCV
    split
    · have hc : f ≠ .c := by rintro rfl; simp at hf
      have hv : f ≠ .v := by rintro rfl; simp at hf
      exact (setFlag_other _ s (.inr hc)).trans (setFlag_other (s := setFlag .c _ s) _ (.inr hv))
    · exact .refl s _ _

/-- N and Z come from the result, with their marks (42_multiply.md R163). -/
theorem multiplyFlags_nz (res : Word) (s : State) :
    getFlag .n (multiplyFlags res s) = res.getLsbD 31 ∧ getFlag .z (multiplyFlags res s) = decide (res = 0) ∧
    (multiplyFlags res s).written.getFlag s.mode .n = true ∧ (multiplyFlags res s).written.getFlag s.mode .z = true := by
  obtain ⟨_, _, h⟩ := multiplyCV_values (setFlag .z (decide (res = 0)) (setFlag .n (res.getLsbD 31) s))
  have hn := h .n (.inl rfl)
  have hz := h .z (.inr rfl)
  have hmode := (multiplyFlags_flagsOnly res s).mode
  refine ⟨?_, ?_, ?_, ?_⟩
  · rw [getFlag, hmode]; exact hn.1.trans (by simp [RegFile.getFlag_setFlag])
  · rw [getFlag, hmode]; exact hz.1.trans (by simp [RegFile.getFlag_setFlag])
  · exact hn.2.trans (by simp [RegFile.getFlag_setFlag])
  · exact hz.2.trans (by simp [RegFile.getFlag_setFlag])

/-- C, V and the draw counter after the flag rule (42_multiply.md R163; log entry 6). -/
theorem multiplyFlags_cv (res : Word) (s : State) :
    (s.params.mulCV = .preserve → SameFlag s (multiplyFlags res s) s.mode .c ∧
      SameFlag s (multiplyFlags res s) s.mode .v ∧ (multiplyFlags res s).draws = s.draws) ∧
    (s.params.mulCV = .draw → getFlag .c (multiplyFlags res s) = Config.freeFlag s.draws ∧
      getFlag .v (multiplyFlags res s) = Config.freeFlag (s.draws + 1) ∧ (multiplyFlags res s).draws = s.draws + 2 ∧
      (multiplyFlags res s).written.getFlag s.mode .c = true ∧
      (multiplyFlags res s).written.getFlag s.mode .v = true) := by
  obtain ⟨hp, hd, _⟩ := multiplyCV_values (setFlag .z (decide (res = 0)) (setFlag .n (res.getLsbD 31) s))
  refine ⟨fun h => ?_, fun h => hd h⟩
  have he : multiplyFlags res s = setFlag .z (decide (res = 0)) (setFlag .n (res.getLsbD 31) s) := hp h
  rw [he]
  exact ⟨(setFlag_other _ s (.inr (by decide))).trans (setFlag_other (s := setFlag .n _ s) _ (.inr (by decide))),
    (setFlag_other _ s (.inr (by decide))).trans (setFlag_other (s := setFlag .n _ s) _ (.inr (by decide))), rfl⟩

/-- The state before the counter moves: the result written, the flags set when `S = 1`. -/
theorem writeProduct_eq (f : MulFields) (res : Word) (s : State) :
    writeProduct f res s =
      (if f.rd = 15 then id else setPc (pcOf s + 4))
        (if f.s then multiplyFlags res (writeReg f.rd res s) else writeReg f.rd res s) := by
  unfold writeProduct advance
  by_cases h : f.rd = 15
  · simp only [if_pos h, id]
  · simp only [if_neg h]

/-- All that a multiply does (42_multiply.md R160, R161, R163, R164). -/
theorem writeProduct_effect (f : MulFields) (res : Word) (s : State) :
    MultiplyEffect f res s (writeProduct f res s) := by
  rw [writeProduct_eq]
  have hw := writeReg_only f.rd res s
  generalize hu : (if f.s then multiplyFlags res (writeReg f.rd res s) else writeReg f.rd res s) = u
  have hf : FlagsOnly (writeReg f.rd res s) u := by
    subst hu; split
    · exact multiplyFlags_flagsOnly _ _
    · exact .refl _
  have hrule : FlagRule f res s u := by
    subst hu
    constructor
    · intro h m g; rw [h]; exact hw.flags m g
    · intro m g hm; exact (hw.flags m g).trans (hf.others m g hm)
    · intro h; rw [h]; exact (multiplyFlags_nz res _).1
    · intro h; rw [h]; exact (multiplyFlags_nz res _).2.1
    · intro h; rw [h]; exact (multiplyFlags_nz res _).2.2
    · intro h hd; rw [h]; exact ((multiplyFlags_cv res (writeReg f.rd res s)).2 hd).2.2.2
    · intro hp
      split
      · obtain ⟨a, b, _⟩ := (multiplyFlags_cv res (writeReg f.rd res s)).1 hp
        exact ⟨(hw.flags _ _).trans a, (hw.flags _ _).trans b⟩
      · exact ⟨hw.flags _ _, hw.flags _ _⟩
  have hres : u.regs.getReg (regSlot s.mode f.rd) = res ∧ u.written.getReg (regSlot s.mode f.rd) = true := by
    obtain ⟨a, b⟩ := hf.regs (regSlot s.mode f.rd)
    exact ⟨a.trans (by simp), b.trans (by simp)⟩
  have hreg : ∀ r, r ≠ regSlot s.mode f.rd → SameReg s u r := fun r hr => (hw.regs r (by simpa using hr)).trans (hf.regs r)
  have hmode : u.mode = s.mode := hf.mode
  by_cases h15 : f.rd = 15
  · simp only [if_pos h15, id]
    have hslot : regSlot s.mode f.rd = .gpr15 := by rw [h15]; rfl
    exact
      { result := ⟨by rw [readReg, hmode]; exact hres.1, hres.2⟩
        counter := by rw [if_pos h15, pcOf_eq_getReg, ← hslot]; exact hres.1
        regs := fun r hr _ => hreg r hr
        flags := hrule, side := hw.side.trans hf.side, mode := hmode, isa := hf.isa }
  · simp only [if_neg h15]
    have hne : regSlot s.mode f.rd ≠ .gpr15 := fun e => h15 ((regSlot_eq_gpr15 _ _).mp e)
    have hp := setPc_only (pcOf s + 4) u
    have hd := hp.regs (regSlot s.mode f.rd) (by simpa using hne)
    exact
      { result := ⟨by rw [readReg, setPc_mode, hmode]; exact hd.1.trans hres.1, hd.2.trans hres.2⟩
        counter := by rw [if_neg h15]; rfl
        regs := fun r hr hr15 => (hreg r hr).trans (hp.regs r (by simpa using hr15))
        flags :=
          { unset := fun h m g => (hrule.unset h m g).trans (hp.flags m g)
            others := fun m g hm => (hrule.others m g hm).trans (hp.flags m g)
            negative := hrule.negative
            zero := hrule.zero
            marks := hrule.marks
            drawMarks := hrule.drawMarks
            preserve := hrule.preserve }
        side := (hw.side.trans hf.side).trans hp.side, mode := hmode, isa := hf.isa }

/-- The draw counter after a multiply, and the values drawn (log entry 6). -/
theorem writeProduct_draws (f : MulFields) (res : Word) (s : State) :
    (f.s = true → s.params.mulCV = .draw → getFlag .c (writeProduct f res s) = Config.freeFlag s.draws ∧
      getFlag .v (writeProduct f res s) = Config.freeFlag (s.draws + 1) ∧ (writeProduct f res s).draws = s.draws + 2) ∧
    (f.s = false ∨ s.params.mulCV = .preserve → (writeProduct f res s).draws = s.draws) := by
  rw [writeProduct_eq]
  constructor
  · intro h hd
    rw [h]
    obtain ⟨a, b, c, _⟩ := (multiplyFlags_cv res (writeReg f.rd res s)).2 hd
    split <;> exact ⟨a, b, c⟩
  · intro h
    cases hs : f.s with
    | false => split <;> rfl
    | true =>
      have hp := h.resolve_left (by simp [hs])
      obtain ⟨_, _, c⟩ := (multiplyFlags_cv res (writeReg f.rd res s)).1 hp
      split <;> exact c

/-! ## The other handlers -/

/-- BX with a valid register changes the counter and the instruction set (41_branch.md R152). -/
theorem exchangeTo_only (v : Word) (s : State) : OnlyRegsChange [.gpr15] s (exchangeTo v s) :=
  ⟨.of_fields rfl rfl rfl rfl rfl rfl rfl, (setPc_only v s).regs, (setPc_only v s).flags⟩

/-- What every step leaves outside the register file and the processor state: everything (43_unimplemented.md R176). -/
theorem Handled.side {i : Instr} {s t : State} (h : Handled i s t) : SameMemorySide s t := by
  cases h with
  | b => exact (setPc_only _ _).side
  | bl => exact .of_fields rfl rfl rfl rfl rfl rfl rfl
  | bx => exact (exchangeTo_only _ _).side
  | bx15 | bxR15 => exact .of_fields rfl rfl rfl rfl rfl rfl rfl
  | mul | mla => exact (writeProduct_effect _ _ _).side

theorem exec_side {i : Instr} {s t : State} (h : exec i s = .next t) : SameMemorySide s t := by
  obtain ⟨c, _, ⟨_, rfl⟩ | ⟨_, hh⟩⟩ := exec_next h
  · exact (setPc_only _ _).side
  · exact hh.side

end Sys2Proof.Machine
end

