-- ==== Sys2Proof/Laws/Loader.lean ====
section
/-! SUPPORT. What the loader puts in memory: an image reads as its bytes, in canonical form. -/
namespace Sys2Proof.Machine

theorem imageCells_wfAbove (bs : List Byte) {a lo : Nat} (h : lo < a) : Memory.wfAbove (imageCells bs a) lo = true := by
  induction bs generalizing a lo with
  | nil => rfl
  | cons b rest ih =>
    unfold imageCells
    split
    · exact ih (by omega)
    · rename_i hb
      simp [Memory.wfAbove, h, hb, ih (Nat.lt_succ_self a)]

theorem imageCells_mem {bs : List Byte} {a : Nat} {cell : Host.Cell} (h : cell ∈ imageCells bs a) :
    a ≤ cell.1 ∧ cell.1 < a + bs.length := by
  induction bs generalizing a with
  | nil => cases h
  | cons b rest ih =>
    unfold imageCells at h
    split at h
    · obtain ⟨h1, h2⟩ := ih h
      simp only [List.length_cons]; omega
    · rcases List.mem_cons.mp h with rfl | h
      · simp
      · obtain ⟨h1, h2⟩ := ih h
        simp only [List.length_cons]; omega

/-- An address that no cell of `m` has reads from what follows `m`. -/
theorem Memory.read_append {m n : Memory} {k : Nat} (h : ∀ cell ∈ m, cell.1 ≠ k) :
    Memory.read (m ++ n) k = Memory.read n k := by
  induction m with
  | nil => rfl
  | cons c rest ih =>
    obtain ⟨j, b⟩ := c
    have hj : j ≠ k := h (j, b) List.mem_cons_self
    change (if j = k then b else Memory.read (rest ++ n) k) = _
    rw [if_neg hj, ih fun cell hc => h cell (List.mem_cons_of_mem _ hc)]

/-- Reading an image that something follows: a byte of the image, or what follows. -/
theorem imageCells_read (bs : List Byte) (a : Nat) (n : Memory) (k : Nat)
    (hn : a ≤ k → k < a + bs.length → Memory.read n k = 0#8) :
    Memory.read (imageCells bs a ++ n) k =
      if a ≤ k ∧ k < a + bs.length then (bs[k - a]?).getD 0#8 else Memory.read n k := by
  induction bs generalizing a with
  | nil =>
    rw [if_neg (by simp)]; rfl
  | cons b rest ih =>
    simp only [List.length_cons] at *
    have hrest := ih (a + 1) (fun h1 h2 => hn (by omega) (by omega))
    by_cases hk : k = a
    · subst hk
      rw [if_pos (by omega)]
      rw [if_neg (by omega)] at hrest
      simp only [Nat.sub_self, List.getElem?_cons_zero, Option.getD_some]
      unfold imageCells
      split
      · rename_i hb; rw [hrest, hb]; exact hn (Nat.le_refl k) (by omega)
      · simp [Memory.read]
    · have step : Memory.read (imageCells (b :: rest) a ++ n) k = Memory.read (imageCells rest (a + 1) ++ n) k := by
        rw [imageCells]
        split
        · rfl
        · exact if_neg (Ne.symm hk)
      rw [step, hrest]
      by_cases h : a ≤ k ∧ k < a + (rest.length + 1)
      · rw [if_pos (by omega), if_pos h, show k - a = (k - (a + 1)) + 1 by omega, List.getElem?_cons_succ]
      · rw [if_neg (by omega), if_neg h]

/-- Memory at the start of a session is in canonical form. -/
theorem launchState_mem_wf (l : Launch) (h : l.bootImage.length ≤ 0x08000000) :
    Memory.wf (launchState l).mem = true := by
  have app : ∀ (m n : Memory) (lo hi : Nat), Memory.wfAbove m lo = true → (∀ c ∈ m, c.1 ≤ hi) → lo ≤ hi →
      Memory.wfAbove n hi = true → Memory.wfAbove (m ++ n) lo = true := by
    intro m
    induction m with
    | nil => intro n lo hi _ _ hl hn; exact Memory.wfAbove_mono hl hn
    | cons c rest ih =>
      obtain ⟨k, b⟩ := c
      intro n lo hi hm hc hl hn
      simp only [Memory.wfAbove, Bool.and_eq_true, List.cons_append] at hm ⊢
      exact ⟨hm.1, ih n k hi hm.2 (fun c hc' => hc c (List.mem_cons_of_mem _ hc')) (hc (k, b) List.mem_cons_self) hn⟩
  have key : ∀ bs : List Byte, bs.length ≤ 0x08000000 →
      Memory.wf (imageCells bs 0 ++ imageCells l.romImage 0x08000000) = true := by
    intro bs hbs
    cases bs with
    | nil => exact Memory.wf_of_wfAbove (lo := 0) (imageCells_wfAbove _ (by omega))
    | cons b rest =>
      rw [List.length_cons] at hbs
      have tail : Memory.wfAbove (imageCells rest 1 ++ imageCells l.romImage 0x08000000) 0 = true := by
        refine app _ _ 0 0x07FFFFFF (imageCells_wfAbove _ (by omega)) (fun c hc => ?_) (by omega)
          (imageCells_wfAbove _ (by omega))
        have := (imageCells_mem hc).2; omega
      rw [imageCells]
      split
      · exact Memory.wf_of_wfAbove tail
      · rename_i hne
        simp only [List.cons_append, Memory.wf, Bool.and_eq_true]
        exact ⟨by simpa using hne, tail⟩
  exact key l.bootImage h

end Sys2Proof.Machine
end

