-- ==== Sys2Proof/Laws/PerInstr.lean ====
section
/-! SUPPORT. Per instruction: the encoder writes the mask and match of the instruction's own row of the opcode table
(30_encoding.md R119), whatever the fields are. -/
namespace Sys2Proof.Laws.RowBits

-- Every lemma below needs the equations of `encode`; elaborated side by side they only wait for one another.
set_option Elab.async false

/-- The word of `i` belongs to the row of `i`: `(w & mask) = match` (R119). -/
def Statement (i : Instr) : Prop := encode i &&& i.row.mask = i.row.pattern

theorem b (c : Cond) (offset24 : BitVec 24) : Statement (.b c offset24) := by
  simp (disch := decide) [Statement, encode, Instr.row, Cond.bits, or_and_mask, put_and_mask]

theorem bl (c : Cond) (offset24 : BitVec 24) : Statement (.bl c offset24) := by
  simp (disch := decide) [Statement, encode, Instr.row, Cond.bits, or_and_mask, put_and_mask]

theorem bx (c : Cond) (rm : Reg) : Statement (.bx c rm) := by
  simp (disch := decide) [Statement, encode, Instr.row, Cond.bits, or_and_mask, put_and_mask]

theorem bxR15 (c : Cond) : Statement (.bxR15 c) := by
  simp (disch := decide) [Statement, encode, Instr.row, Cond.bits, or_and_mask, put_and_mask]

theorem mul (c : Cond) (f : MulFields) : Statement (.mul c f) := by
  simp (disch := decide) [Statement, encode, Instr.row, Cond.bits, MulFields.bits, or_and_mask, put_and_mask, putBit_and_mask]

theorem mla (c : Cond) (f : MulFields) : Statement (.mla c f) := by
  simp (disch := decide) [Statement, encode, Instr.row, Cond.bits, MulFields.bits, or_and_mask, put_and_mask, putBit_and_mask]

theorem and (c : Cond) (f : DpFields) : Statement (.and c f) := by
  simp (disch := decide) [Statement, encode, Instr.row, Cond.bits, DpFields.bits, or_and_mask, put_and_mask, putBit_and_mask]

theorem eor (c : Cond) (f : DpFields) : Statement (.eor c f) := by
  simp (disch := decide) [Statement, encode, Instr.row, Cond.bits, DpFields.bits, or_and_mask, put_and_mask, putBit_and_mask]

theorem sub (c : Cond) (f : DpFields) : Statement (.sub c f) := by
  simp (disch := decide) [Statement, encode, Instr.row, Cond.bits, DpFields.bits, or_and_mask, put_and_mask, putBit_and_mask]

theorem rsb (c : Cond) (f : DpFields) : Statement (.rsb c f) := by
  simp (disch := decide) [Statement, encode, Instr.row, Cond.bits, DpFields.bits, or_and_mask, put_and_mask, putBit_and_mask]

theorem add (c : Cond) (f : DpFields) : Statement (.add c f) := by
  simp (disch := decide) [Statement, encode, Instr.row, Cond.bits, DpFields.bits, or_and_mask, put_and_mask, putBit_and_mask]

theorem adc (c : Cond) (f : DpFields) : Statement (.adc c f) := by
  simp (disch := decide) [Statement, encode, Instr.row, Cond.bits, DpFields.bits, or_and_mask, put_and_mask, putBit_and_mask]

theorem sbc (c : Cond) (f : DpFields) : Statement (.sbc c f) := by
  simp (disch := decide) [Statement, encode, Instr.row, Cond.bits, DpFields.bits, or_and_mask, put_and_mask, putBit_and_mask]

theorem rsc (c : Cond) (f : DpFields) : Statement (.rsc c f) := by
  simp (disch := decide) [Statement, encode, Instr.row, Cond.bits, DpFields.bits, or_and_mask, put_and_mask, putBit_and_mask]

theorem tst (c : Cond) (f : DpFields) : Statement (.tst c f) := by
  simp (disch := decide) [Statement, encode, Instr.row, Cond.bits, DpFields.bits, or_and_mask, put_and_mask, putBit_and_mask]

theorem teq (c : Cond) (f : DpFields) : Statement (.teq c f) := by
  simp (disch := decide) [Statement, encode, Instr.row, Cond.bits, DpFields.bits, or_and_mask, put_and_mask, putBit_and_mask]

theorem cmp (c : Cond) (f : DpFields) : Statement (.cmp c f) := by
  simp (disch := decide) [Statement, encode, Instr.row, Cond.bits, DpFields.bits, or_and_mask, put_and_mask, putBit_and_mask]

theorem cmn (c : Cond) (f : DpFields) : Statement (.cmn c f) := by
  simp (disch := decide) [Statement, encode, Instr.row, Cond.bits, DpFields.bits, or_and_mask, put_and_mask, putBit_and_mask]

theorem orr (c : Cond) (f : DpFields) : Statement (.orr c f) := by
  simp (disch := decide) [Statement, encode, Instr.row, Cond.bits, DpFields.bits, or_and_mask, put_and_mask, putBit_and_mask]

theorem mov (c : Cond) (f : DpFields) : Statement (.mov c f) := by
  simp (disch := decide) [Statement, encode, Instr.row, Cond.bits, DpFields.bits, or_and_mask, put_and_mask, putBit_and_mask]

theorem bic (c : Cond) (f : DpFields) : Statement (.bic c f) := by
  simp (disch := decide) [Statement, encode, Instr.row, Cond.bits, DpFields.bits, or_and_mask, put_and_mask, putBit_and_mask]

theorem mvn (c : Cond) (f : DpFields) : Statement (.mvn c f) := by
  simp (disch := decide) [Statement, encode, Instr.row, Cond.bits, DpFields.bits, or_and_mask, put_and_mask, putBit_and_mask]

theorem mrs (c : Cond) (ps : Bool) (rd : Reg) : Statement (.mrs c ps rd) := by
  simp (disch := decide) [Statement, encode, Instr.row, Cond.bits, or_and_mask, put_and_mask, putBit_and_mask]

theorem msrReg (c : Cond) (pd : Bool) (fieldmask : BitVec 4) (rm : Reg) : Statement (.msrReg c pd fieldmask rm) := by
  simp (disch := decide) [Statement, encode, Instr.row, Cond.bits, or_and_mask, put_and_mask, putBit_and_mask]

theorem msrImm (c : Cond) (pd : Bool) (fieldmask : BitVec 4) (imm : BitVec 12) : Statement (.msrImm c pd fieldmask imm) := by
  simp (disch := decide) [Statement, encode, Instr.row, Cond.bits, or_and_mask, put_and_mask, putBit_and_mask]

theorem umull (c : Cond) (f : MulLongFields) : Statement (.umull c f) := by
  simp (disch := decide) [Statement, encode, Instr.row, Cond.bits, MulLongFields.bits, or_and_mask, put_and_mask, putBit_and_mask]

theorem umlal (c : Cond) (f : MulLongFields) : Statement (.umlal c f) := by
  simp (disch := decide) [Statement, encode, Instr.row, Cond.bits, MulLongFields.bits, or_and_mask, put_and_mask, putBit_and_mask]

theorem smull (c : Cond) (f : MulLongFields) : Statement (.smull c f) := by
  simp (disch := decide) [Statement, encode, Instr.row, Cond.bits, MulLongFields.bits, or_and_mask, put_and_mask, putBit_and_mask]

theorem smlal (c : Cond) (f : MulLongFields) : Statement (.smlal c f) := by
  simp (disch := decide) [Statement, encode, Instr.row, Cond.bits, MulLongFields.bits, or_and_mask, put_and_mask, putBit_and_mask]

theorem swp (c : Cond) (f : SwapFields) : Statement (.swp c f) := by
  simp (disch := decide) [Statement, encode, Instr.row, Cond.bits, SwapFields.bits, or_and_mask, put_and_mask]

theorem swpb (c : Cond) (f : SwapFields) : Statement (.swpb c f) := by
  simp (disch := decide) [Statement, encode, Instr.row, Cond.bits, SwapFields.bits, or_and_mask, put_and_mask]

theorem strhReg (c : Cond) (f : HalfRegFields) : Statement (.strhReg c f) := by
  simp (disch := decide) [Statement, encode, Instr.row, Cond.bits, HalfRegFields.bits, or_and_mask, put_and_mask, putBit_and_mask]

theorem strhImm (c : Cond) (f : HalfImmFields) : Statement (.strhImm c f) := by
  simp (disch := decide) [Statement, encode, Instr.row, Cond.bits, HalfImmFields.bits, or_and_mask, put_and_mask, putBit_and_mask]

theorem ldrhReg (c : Cond) (f : HalfRegFields) : Statement (.ldrhReg c f) := by
  simp (disch := decide) [Statement, encode, Instr.row, Cond.bits, HalfRegFields.bits, or_and_mask, put_and_mask, putBit_and_mask]

theorem ldrhImm (c : Cond) (f : HalfImmFields) : Statement (.ldrhImm c f) := by
  simp (disch := decide) [Statement, encode, Instr.row, Cond.bits, HalfImmFields.bits, or_and_mask, put_and_mask, putBit_and_mask]

theorem ldrsbReg (c : Cond) (f : HalfRegFields) : Statement (.ldrsbReg c f) := by
  simp (disch := decide) [Statement, encode, Instr.row, Cond.bits, HalfRegFields.bits, or_and_mask, put_and_mask, putBit_and_mask]

theorem ldrsbImm (c : Cond) (f : HalfImmFields) : Statement (.ldrsbImm c f) := by
  simp (disch := decide) [Statement, encode, Instr.row, Cond.bits, HalfImmFields.bits, or_and_mask, put_and_mask, putBit_and_mask]

theorem ldrshReg (c : Cond) (f : HalfRegFields) : Statement (.ldrshReg c f) := by
  simp (disch := decide) [Statement, encode, Instr.row, Cond.bits, HalfRegFields.bits, or_and_mask, put_and_mask, putBit_and_mask]

theorem ldrshImm (c : Cond) (f : HalfImmFields) : Statement (.ldrshImm c f) := by
  simp (disch := decide) [Statement, encode, Instr.row, Cond.bits, HalfImmFields.bits, or_and_mask, put_and_mask, putBit_and_mask]

theorem hdtL0Sh10Reg (c : Cond) (f : HalfRegFields) : Statement (.hdtL0Sh10Reg c f) := by
  simp (disch := decide) [Statement, encode, Instr.row, Cond.bits, HalfRegFields.bits, or_and_mask, put_and_mask, putBit_and_mask]

theorem hdtL0Sh10Imm (c : Cond) (f : HalfImmFields) : Statement (.hdtL0Sh10Imm c f) := by
  simp (disch := decide) [Statement, encode, Instr.row, Cond.bits, HalfImmFields.bits, or_and_mask, put_and_mask, putBit_and_mask]

theorem hdtL0Sh11Reg (c : Cond) (f : HalfRegFields) : Statement (.hdtL0Sh11Reg c f) := by
  simp (disch := decide) [Statement, encode, Instr.row, Cond.bits, HalfRegFields.bits, or_and_mask, put_and_mask, putBit_and_mask]

theorem hdtL0Sh11Imm (c : Cond) (f : HalfImmFields) : Statement (.hdtL0Sh11Imm c f) := by
  simp (disch := decide) [Statement, encode, Instr.row, Cond.bits, HalfImmFields.bits, or_and_mask, put_and_mask, putBit_and_mask]

theorem undefined000 (c : Cond) (f : Undef000Bits) : Statement (.undefined000 c f) := by
  simp (disch := decide) [Statement, encode, Instr.row, Cond.bits, Undef000Bits.bits, or_and_mask, put_and_mask]

theorem undefined011 (c : Cond) (f : Undef011Bits) : Statement (.undefined011 c f) := by
  simp (disch := decide) [Statement, encode, Instr.row, Cond.bits, Undef011Bits.bits, or_and_mask, put_and_mask]

theorem str (c : Cond) (f : TransferFields) : Statement (.str c f) := by
  simp (disch := decide) [Statement, encode, Instr.row, Cond.bits, TransferFields.bits, or_and_mask, put_and_mask, putBit_and_mask]

theorem ldr (c : Cond) (f : TransferFields) : Statement (.ldr c f) := by
  simp (disch := decide) [Statement, encode, Instr.row, Cond.bits, TransferFields.bits, or_and_mask, put_and_mask, putBit_and_mask]

theorem strb (c : Cond) (f : TransferFields) : Statement (.strb c f) := by
  simp (disch := decide) [Statement, encode, Instr.row, Cond.bits, TransferFields.bits, or_and_mask, put_and_mask, putBit_and_mask]

theorem ldrb (c : Cond) (f : TransferFields) : Statement (.ldrb c f) := by
  simp (disch := decide) [Statement, encode, Instr.row, Cond.bits, TransferFields.bits, or_and_mask, put_and_mask, putBit_and_mask]

theorem stm (c : Cond) (f : BlockFields) : Statement (.stm c f) := by
  simp (disch := decide) [Statement, encode, Instr.row, Cond.bits, BlockFields.bits, or_and_mask, put_and_mask, putBit_and_mask]

theorem ldm (c : Cond) (f : BlockFields) : Statement (.ldm c f) := by
  simp (disch := decide) [Statement, encode, Instr.row, Cond.bits, BlockFields.bits, or_and_mask, put_and_mask, putBit_and_mask]

theorem stc (c : Cond) (f : CoprocTransferFields) : Statement (.stc c f) := by
  simp (disch := decide) [Statement, encode, Instr.row, Cond.bits, CoprocTransferFields.bits, or_and_mask, put_and_mask, putBit_and_mask]

theorem ldc (c : Cond) (f : CoprocTransferFields) : Statement (.ldc c f) := by
  simp (disch := decide) [Statement, encode, Instr.row, Cond.bits, CoprocTransferFields.bits, or_and_mask, put_and_mask, putBit_and_mask]

theorem cdp (c : Cond) (f : CoprocOpFields) : Statement (.cdp c f) := by
  simp (disch := decide) [Statement, encode, Instr.row, Cond.bits, CoprocOpFields.bits, or_and_mask, put_and_mask]

theorem mcr (c : Cond) (f : CoprocRegFields) : Statement (.mcr c f) := by
  simp (disch := decide) [Statement, encode, Instr.row, Cond.bits, CoprocRegFields.bits, or_and_mask, put_and_mask]

theorem mrc (c : Cond) (f : CoprocRegFields) : Statement (.mrc c f) := by
  simp (disch := decide) [Statement, encode, Instr.row, Cond.bits, CoprocRegFields.bits, or_and_mask, put_and_mask]

theorem swi (c : Cond) (comment : BitVec 24) : Statement (.swi c comment) := by
  simp (disch := decide) [Statement, encode, Instr.row, Cond.bits, or_and_mask, put_and_mask]

theorem tLsl (p : BitVec 11) : Statement (.tLsl p) := by
  simp (disch := decide) [Statement, encode, Instr.row, put_and_mask]

theorem tLsr (p : BitVec 11) : Statement (.tLsr p) := by
  simp (disch := decide) [Statement, encode, Instr.row, or_and_mask, put_and_mask]

theorem tAsr (p : BitVec 11) : Statement (.tAsr p) := by
  simp (disch := decide) [Statement, encode, Instr.row, or_and_mask, put_and_mask]

theorem tAddReg (p : BitVec 9) : Statement (.tAddReg p) := by
  simp (disch := decide) [Statement, encode, Instr.row, or_and_mask, put_and_mask]

theorem tSubReg (p : BitVec 9) : Statement (.tSubReg p) := by
  simp (disch := decide) [Statement, encode, Instr.row, or_and_mask, put_and_mask]

theorem tAddImm3 (p : BitVec 9) : Statement (.tAddImm3 p) := by
  simp (disch := decide) [Statement, encode, Instr.row, or_and_mask, put_and_mask]

theorem tSubImm3 (p : BitVec 9) : Statement (.tSubImm3 p) := by
  simp (disch := decide) [Statement, encode, Instr.row, or_and_mask, put_and_mask]

theorem tMovImm (p : BitVec 11) : Statement (.tMovImm p) := by
  simp (disch := decide) [Statement, encode, Instr.row, or_and_mask, put_and_mask]

theorem tCmpImm (p : BitVec 11) : Statement (.tCmpImm p) := by
  simp (disch := decide) [Statement, encode, Instr.row, or_and_mask, put_and_mask]

theorem tAddImm8 (p : BitVec 11) : Statement (.tAddImm8 p) := by
  simp (disch := decide) [Statement, encode, Instr.row, or_and_mask, put_and_mask]

theorem tSubImm8 (p : BitVec 11) : Statement (.tSubImm8 p) := by
  simp (disch := decide) [Statement, encode, Instr.row, or_and_mask, put_and_mask]

theorem tAndAlu (p : BitVec 6) : Statement (.tAndAlu p) := by
  simp (disch := decide) [Statement, encode, Instr.row, or_and_mask, put_and_mask]

theorem tEorAlu (p : BitVec 6) : Statement (.tEorAlu p) := by
  simp (disch := decide) [Statement, encode, Instr.row, or_and_mask, put_and_mask]

theorem tLslAlu (p : BitVec 6) : Statement (.tLslAlu p) := by
  simp (disch := decide) [Statement, encode, Instr.row, or_and_mask, put_and_mask]

theorem tLsrAlu (p : BitVec 6) : Statement (.tLsrAlu p) := by
  simp (disch := decide) [Statement, encode, Instr.row, or_and_mask, put_and_mask]

theorem tAsrAlu (p : BitVec 6) : Statement (.tAsrAlu p) := by
  simp (disch := decide) [Statement, encode, Instr.row, or_and_mask, put_and_mask]

theorem tAdcAlu (p : BitVec 6) : Statement (.tAdcAlu p) := by
  simp (disch := decide) [Statement, encode, Instr.row, or_and_mask, put_and_mask]

theorem tSbcAlu (p : BitVec 6) : Statement (.tSbcAlu p) := by
  simp (disch := decide) [Statement, encode, Instr.row, or_and_mask, put_and_mask]

theorem tRorAlu (p : BitVec 6) : Statement (.tRorAlu p) := by
  simp (disch := decide) [Statement, encode, Instr.row, or_and_mask, put_and_mask]

theorem tTstAlu (p : BitVec 6) : Statement (.tTstAlu p) := by
  simp (disch := decide) [Statement, encode, Instr.row, or_and_mask, put_and_mask]

theorem tNegAlu (p : BitVec 6) : Statement (.tNegAlu p) := by
  simp (disch := decide) [Statement, encode, Instr.row, or_and_mask, put_and_mask]

theorem tCmpAlu (p : BitVec 6) : Statement (.tCmpAlu p) := by
  simp (disch := decide) [Statement, encode, Instr.row, or_and_mask, put_and_mask]

theorem tCmnAlu (p : BitVec 6) : Statement (.tCmnAlu p) := by
  simp (disch := decide) [Statement, encode, Instr.row, or_and_mask, put_and_mask]

theorem tOrrAlu (p : BitVec 6) : Statement (.tOrrAlu p) := by
  simp (disch := decide) [Statement, encode, Instr.row, or_and_mask, put_and_mask]

theorem tMulAlu (p : BitVec 6) : Statement (.tMulAlu p) := by
  simp (disch := decide) [Statement, encode, Instr.row, or_and_mask, put_and_mask]

theorem tBicAlu (p : BitVec 6) : Statement (.tBicAlu p) := by
  simp (disch := decide) [Statement, encode, Instr.row, or_and_mask, put_and_mask]

theorem tMvnAlu (p : BitVec 6) : Statement (.tMvnAlu p) := by
  simp (disch := decide) [Statement, encode, Instr.row, or_and_mask, put_and_mask]

theorem tAddHi (p : BitVec 8) : Statement (.tAddHi p) := by
  simp (disch := decide) [Statement, encode, Instr.row, or_and_mask, put_and_mask]

theorem tCmpHi (p : BitVec 8) : Statement (.tCmpHi p) := by
  simp (disch := decide) [Statement, encode, Instr.row, or_and_mask, put_and_mask]

theorem tMovHi (p : BitVec 8) : Statement (.tMovHi p) := by
  simp (disch := decide) [Statement, encode, Instr.row, or_and_mask, put_and_mask]

theorem tBx (p : BitVec 8) : Statement (.tBx p) := by
  simp (disch := decide) [Statement, encode, Instr.row, or_and_mask, put_and_mask]

theorem tLdrPc (p : BitVec 11) : Statement (.tLdrPc p) := by
  simp (disch := decide) [Statement, encode, Instr.row, or_and_mask, put_and_mask]

theorem tStrReg (p : BitVec 9) : Statement (.tStrReg p) := by
  simp (disch := decide) [Statement, encode, Instr.row, or_and_mask, put_and_mask]

theorem tStrbReg (p : BitVec 9) : Statement (.tStrbReg p) := by
  simp (disch := decide) [Statement, encode, Instr.row, or_and_mask, put_and_mask]

theorem tLdrReg (p : BitVec 9) : Statement (.tLdrReg p) := by
  simp (disch := decide) [Statement, encode, Instr.row, or_and_mask, put_and_mask]

theorem tLdrbReg (p : BitVec 9) : Statement (.tLdrbReg p) := by
  simp (disch := decide) [Statement, encode, Instr.row, or_and_mask, put_and_mask]

theorem tStrhReg (p : BitVec 9) : Statement (.tStrhReg p) := by
  simp (disch := decide) [Statement, encode, Instr.row, or_and_mask, put_and_mask]

theorem tLdsbReg (p : BitVec 9) : Statement (.tLdsbReg p) := by
  simp (disch := decide) [Statement, encode, Instr.row, or_and_mask, put_and_mask]

theorem tLdrhReg (p : BitVec 9) : Statement (.tLdrhReg p) := by
  simp (disch := decide) [Statement, encode, Instr.row, or_and_mask, put_and_mask]

theorem tLdshReg (p : BitVec 9) : Statement (.tLdshReg p) := by
  simp (disch := decide) [Statement, encode, Instr.row, or_and_mask, put_and_mask]

theorem tStrImm (p : BitVec 11) : Statement (.tStrImm p) := by
  simp (disch := decide) [Statement, encode, Instr.row, or_and_mask, put_and_mask]

theorem tLdrImm (p : BitVec 11) : Statement (.tLdrImm p) := by
  simp (disch := decide) [Statement, encode, Instr.row, or_and_mask, put_and_mask]

theorem tStrbImm (p : BitVec 11) : Statement (.tStrbImm p) := by
  simp (disch := decide) [Statement, encode, Instr.row, or_and_mask, put_and_mask]

theorem tLdrbImm (p : BitVec 11) : Statement (.tLdrbImm p) := by
  simp (disch := decide) [Statement, encode, Instr.row, or_and_mask, put_and_mask]

theorem tStrhImm (p : BitVec 11) : Statement (.tStrhImm p) := by
  simp (disch := decide) [Statement, encode, Instr.row, or_and_mask, put_and_mask]

theorem tLdrhImm (p : BitVec 11) : Statement (.tLdrhImm p) := by
  simp (disch := decide) [Statement, encode, Instr.row, or_and_mask, put_and_mask]

theorem tStrSp (p : BitVec 11) : Statement (.tStrSp p) := by
  simp (disch := decide) [Statement, encode, Instr.row, or_and_mask, put_and_mask]

theorem tLdrSp (p : BitVec 11) : Statement (.tLdrSp p) := by
  simp (disch := decide) [Statement, encode, Instr.row, or_and_mask, put_and_mask]

theorem tAddPc (p : BitVec 11) : Statement (.tAddPc p) := by
  simp (disch := decide) [Statement, encode, Instr.row, or_and_mask, put_and_mask]

theorem tAddSp (p : BitVec 11) : Statement (.tAddSp p) := by
  simp (disch := decide) [Statement, encode, Instr.row, or_and_mask, put_and_mask]

theorem tAddSpImm (p : BitVec 8) : Statement (.tAddSpImm p) := by
  simp (disch := decide) [Statement, encode, Instr.row, or_and_mask, put_and_mask]

theorem tPush (p : BitVec 9) : Statement (.tPush p) := by
  simp (disch := decide) [Statement, encode, Instr.row, or_and_mask, put_and_mask]

theorem tPop (p : BitVec 9) : Statement (.tPop p) := by
  simp (disch := decide) [Statement, encode, Instr.row, or_and_mask, put_and_mask]

theorem tStmia (p : BitVec 11) : Statement (.tStmia p) := by
  simp (disch := decide) [Statement, encode, Instr.row, or_and_mask, put_and_mask]

theorem tLdmia (p : BitVec 11) : Statement (.tLdmia p) := by
  simp (disch := decide) [Statement, encode, Instr.row, or_and_mask, put_and_mask]

theorem tBeq (p : BitVec 8) : Statement (.tBeq p) := by
  simp (disch := decide) [Statement, encode, Instr.row, or_and_mask, put_and_mask]

theorem tBne (p : BitVec 8) : Statement (.tBne p) := by
  simp (disch := decide) [Statement, encode, Instr.row, or_and_mask, put_and_mask]

theorem tBcs (p : BitVec 8) : Statement (.tBcs p) := by
  simp (disch := decide) [Statement, encode, Instr.row, or_and_mask, put_and_mask]

theorem tBcc (p : BitVec 8) : Statement (.tBcc p) := by
  simp (disch := decide) [Statement, encode, Instr.row, or_and_mask, put_and_mask]

theorem tBmi (p : BitVec 8) : Statement (.tBmi p) := by
  simp (disch := decide) [Statement, encode, Instr.row, or_and_mask, put_and_mask]

theorem tBpl (p : BitVec 8) : Statement (.tBpl p) := by
  simp (disch := decide) [Statement, encode, Instr.row, or_and_mask, put_and_mask]

theorem tBvs (p : BitVec 8) : Statement (.tBvs p) := by
  simp (disch := decide) [Statement, encode, Instr.row, or_and_mask, put_and_mask]

theorem tBvc (p : BitVec 8) : Statement (.tBvc p) := by
  simp (disch := decide) [Statement, encode, Instr.row, or_and_mask, put_and_mask]

theorem tBhi (p : BitVec 8) : Statement (.tBhi p) := by
  simp (disch := decide) [Statement, encode, Instr.row, or_and_mask, put_and_mask]

theorem tBls (p : BitVec 8) : Statement (.tBls p) := by
  simp (disch := decide) [Statement, encode, Instr.row, or_and_mask, put_and_mask]

theorem tBge (p : BitVec 8) : Statement (.tBge p) := by
  simp (disch := decide) [Statement, encode, Instr.row, or_and_mask, put_and_mask]

theorem tBlt (p : BitVec 8) : Statement (.tBlt p) := by
  simp (disch := decide) [Statement, encode, Instr.row, or_and_mask, put_and_mask]

theorem tBgt (p : BitVec 8) : Statement (.tBgt p) := by
  simp (disch := decide) [Statement, encode, Instr.row, or_and_mask, put_and_mask]

theorem tBle (p : BitVec 8) : Statement (.tBle p) := by
  simp (disch := decide) [Statement, encode, Instr.row, or_and_mask, put_and_mask]

theorem tSwiThumb (p : BitVec 8) : Statement (.tSwiThumb p) := by
  simp (disch := decide) [Statement, encode, Instr.row, or_and_mask, put_and_mask]

theorem tBThumb (p : BitVec 11) : Statement (.tBThumb p) := by
  simp (disch := decide) [Statement, encode, Instr.row, or_and_mask, put_and_mask]

theorem tBlPrefix (p : BitVec 11) : Statement (.tBlPrefix p) := by
  simp (disch := decide) [Statement, encode, Instr.row, or_and_mask, put_and_mask]

theorem tBlSuffix (p : BitVec 11) : Statement (.tBlSuffix p) := by
  simp (disch := decide) [Statement, encode, Instr.row, or_and_mask, put_and_mask]

theorem narrowUndefB1 (p : BitVec 8) : Statement (.narrowUndefB1 p) := by
  simp (disch := decide) [Statement, encode, Instr.row, or_and_mask, put_and_mask]

theorem narrowUndefB2 (p : BitVec 8) : Statement (.narrowUndefB2 p) := by
  simp (disch := decide) [Statement, encode, Instr.row, or_and_mask, put_and_mask]

theorem narrowUndefB3 (p : BitVec 8) : Statement (.narrowUndefB3 p) := by
  simp (disch := decide) [Statement, encode, Instr.row, or_and_mask, put_and_mask]

theorem narrowUndefB6 (p : BitVec 8) : Statement (.narrowUndefB6 p) := by
  simp (disch := decide) [Statement, encode, Instr.row, or_and_mask, put_and_mask]

theorem narrowUndefB7 (p : BitVec 8) : Statement (.narrowUndefB7 p) := by
  simp (disch := decide) [Statement, encode, Instr.row, or_and_mask, put_and_mask]

theorem narrowUndefB8 (p : BitVec 8) : Statement (.narrowUndefB8 p) := by
  simp (disch := decide) [Statement, encode, Instr.row, or_and_mask, put_and_mask]

theorem narrowUndefB9 (p : BitVec 8) : Statement (.narrowUndefB9 p) := by
  simp (disch := decide) [Statement, encode, Instr.row, or_and_mask, put_and_mask]

theorem narrowUndefBa (p : BitVec 8) : Statement (.narrowUndefBa p) := by
  simp (disch := decide) [Statement, encode, Instr.row, or_and_mask, put_and_mask]

theorem narrowUndefBb (p : BitVec 8) : Statement (.narrowUndefBb p) := by
  simp (disch := decide) [Statement, encode, Instr.row, or_and_mask, put_and_mask]

theorem narrowUndefBe (p : BitVec 8) : Statement (.narrowUndefBe p) := by
  simp (disch := decide) [Statement, encode, Instr.row, or_and_mask, put_and_mask]

theorem narrowUndefBf (p : BitVec 8) : Statement (.narrowUndefBf p) := by
  simp (disch := decide) [Statement, encode, Instr.row, or_and_mask, put_and_mask]

theorem narrowUndefDe (p : BitVec 8) : Statement (.narrowUndefDe p) := by
  simp (disch := decide) [Statement, encode, Instr.row, or_and_mask, put_and_mask]

theorem narrowUndefE8Ef (p : BitVec 11) : Statement (.narrowUndefE8Ef p) := by
  simp (disch := decide) [Statement, encode, Instr.row, or_and_mask, put_and_mask]

end Sys2Proof.Laws.RowBits
end

