-- ==== Sys2Proof/Tests/Slice0.lean ====
section
/-! SUPPORT. The model's own tests: well-formedness, decoding of words written out from the spec, the spec's vectors, and a
witness for every statement that has hypotheses. -/
namespace Sys2Proof.Tests
open Sys2Proof Sys2Proof.Machine

/-! ## WellFormed: an ill-formed term for each check, and a neighbour that passes -/

theorem test_wf_dp_operand2 :
    (Instr.and .al { i := false, s := false, rn := 0, rd := 0, operand2 := 0x090 }).wf = false ∧
    (Instr.and .al { i := true, s := false, rn := 0, rd := 0, operand2 := 0x090 }).wf = true := by decide
theorem test_wf_teq_is_bx :
    (Instr.teq .al { i := false, s := false, rn := 15, rd := 15, operand2 := 0xF10 }).wf = false ∧
    (Instr.teq .al { i := false, s := true, rn := 15, rd := 15, operand2 := 0xF10 }).wf = true := by decide
theorem test_wf_bx : (Instr.bx .al 15).wf = false ∧ (Instr.bx .al 14).wf = true := by decide
theorem test_wf_transfer :
    (Instr.ldr .al { i := true, p := true, u := true, w := false, rn := 0, rd := 0, offset12 := 0x010 }).wf = false ∧
    (Instr.ldr .al { i := false, p := true, u := true, w := false, rn := 0, rd := 0, offset12 := 0x010 }).wf = true := by
  decide
theorem test_wf_undefined000_multiply :
    (Instr.undefined000 .al { hi := 0x00000, sh := 0, lo := 0 }).wf = false ∧
    (Instr.undefined000 .al { hi := 0x04000, sh := 0, lo := 0 }).wf = true := by decide
theorem test_wf_undefined000_multiply_long :
    (Instr.undefined000 .al { hi := 0x08000, sh := 0, lo := 0 }).wf = false ∧
    (Instr.undefined000 .al { hi := 0x18000, sh := 0, lo := 0 }).wf = true := by decide
theorem test_wf_undefined000_swap :
    (Instr.undefined000 .al { hi := 0x10000, sh := 0, lo := 0 }).wf = false ∧
    (Instr.undefined000 .al { hi := 0x10001, sh := 0, lo := 0 }).wf = true := by decide
theorem test_wf_undefined000_halfword :
    (Instr.undefined000 .al { hi := 0x04001, sh := 1, lo := 0 }).wf = false ∧
    (Instr.undefined000 .al { hi := 0x00000, sh := 1, lo := 0 }).wf = false ∧
    (Instr.undefined000 .al { hi := 0x00001, sh := 1, lo := 0 }).wf = true := by decide

/-! ## Decoding: for every row of the opcode table one word written out from the encodings of R103, R106 and R113 -/

theorem test_decode_Branch :
    decodeWide 0xEA123456 = .b .al 0x123456 ∧
    decodeWide 0x1BFFFFFF = .bl .ne 0xFFFFFF := by decide

theorem test_decode_BranchExchange :
    decodeWide 0xE12FFF1E = .bx .al 14 ∧
    decodeWide 0x012FFF1F = .bxR15 .eq := by decide

theorem test_decode_Multiply :
    decodeWide 0xE0112394 = .mul .al { s := true, rd := 1, rn := 2, rs := 3, rm := 4 } ∧
    decodeWide 0xE0312394 = .mla .al { s := true, rd := 1, rn := 2, rs := 3, rm := 4 } := by decide

theorem test_decode_DataProcessing :
    decodeWide 0xE0112304 = .and .al { i := false, s := true, rn := 1, rd := 2, operand2 := 0x304 } ∧
    decodeWide 0xE0312304 = .eor .al { i := false, s := true, rn := 1, rd := 2, operand2 := 0x304 } ∧
    decodeWide 0xE0512304 = .sub .al { i := false, s := true, rn := 1, rd := 2, operand2 := 0x304 } ∧
    decodeWide 0xE0712304 = .rsb .al { i := false, s := true, rn := 1, rd := 2, operand2 := 0x304 } ∧
    decodeWide 0xE0912304 = .add .al { i := false, s := true, rn := 1, rd := 2, operand2 := 0x304 } ∧
    decodeWide 0xE0B12304 = .adc .al { i := false, s := true, rn := 1, rd := 2, operand2 := 0x304 } ∧
    decodeWide 0xE0D12304 = .sbc .al { i := false, s := true, rn := 1, rd := 2, operand2 := 0x304 } ∧
    decodeWide 0xE0F12304 = .rsc .al { i := false, s := true, rn := 1, rd := 2, operand2 := 0x304 } ∧
    decodeWide 0xE1112304 = .tst .al { i := false, s := true, rn := 1, rd := 2, operand2 := 0x304 } ∧
    decodeWide 0xE1312304 = .teq .al { i := false, s := true, rn := 1, rd := 2, operand2 := 0x304 } ∧
    decodeWide 0xE1512304 = .cmp .al { i := false, s := true, rn := 1, rd := 2, operand2 := 0x304 } ∧
    decodeWide 0xE1712304 = .cmn .al { i := false, s := true, rn := 1, rd := 2, operand2 := 0x304 } ∧
    decodeWide 0xE1912304 = .orr .al { i := false, s := true, rn := 1, rd := 2, operand2 := 0x304 } ∧
    decodeWide 0xE1B12304 = .mov .al { i := false, s := true, rn := 1, rd := 2, operand2 := 0x304 } ∧
    decodeWide 0xE1D12304 = .bic .al { i := false, s := true, rn := 1, rd := 2, operand2 := 0x304 } ∧
    decodeWide 0xE1F12304 = .mvn .al { i := false, s := true, rn := 1, rd := 2, operand2 := 0x304 } := by decide

theorem test_decode_DataProcessing_aliases :
    decodeWide 0xE14F3000 = .cmp .al { i := false, s := false, rn := 15, rd := 3, operand2 := 0 } ∧
    decodeWide 0xE129F005 = .teq .al { i := false, s := false, rn := 9, rd := 15, operand2 := 5 } ∧
    decodeWide 0xE368F4F0 = .cmn .al { i := true, s := false, rn := 8, rd := 15, operand2 := 0x4F0 } := by decide

theorem test_decode_MultiplyLong :
    decodeWide 0xE0912394 = .umull .al { s := true, rdHi := 1, rdLo := 2, rs := 3, rm := 4 } ∧
    decodeWide 0xE0B12394 = .umlal .al { s := true, rdHi := 1, rdLo := 2, rs := 3, rm := 4 } ∧
    decodeWide 0xE0D12394 = .smull .al { s := true, rdHi := 1, rdLo := 2, rs := 3, rm := 4 } ∧
    decodeWide 0xE0F12394 = .smlal .al { s := true, rdHi := 1, rdLo := 2, rs := 3, rm := 4 } := by decide

theorem test_decode_SingleDataSwap :
    decodeWide 0xE1012094 = .swp .al { rn := 1, rd := 2, rm := 4 } ∧
    decodeWide 0xE1412094 = .swpb .al { rn := 1, rd := 2, rm := 4 } := by decide

theorem test_decode_HalfwordRegOffset :
    decodeWide 0xE12120B4 = .strhReg .al { p := true, u := false, w := true, rn := 1, rd := 2, rm := 4 } ∧
    decodeWide 0xE13120B4 = .ldrhReg .al { p := true, u := false, w := true, rn := 1, rd := 2, rm := 4 } ∧
    decodeWide 0xE13120D4 = .ldrsbReg .al { p := true, u := false, w := true, rn := 1, rd := 2, rm := 4 } ∧
    decodeWide 0xE13120F4 = .ldrshReg .al { p := true, u := false, w := true, rn := 1, rd := 2, rm := 4 } ∧
    decodeWide 0xE12120D4 = .hdtL0Sh10Reg .al { p := true, u := false, w := true, rn := 1, rd := 2, rm := 4 } ∧
    decodeWide 0xE12120F4 = .hdtL0Sh11Reg .al { p := true, u := false, w := true, rn := 1, rd := 2, rm := 4 } := by decide

theorem test_decode_HalfwordImmOffset :
    decodeWide 0xE1612AB5 = .strhImm .al { p := true, u := false, w := true, rn := 1, rd := 2, offset8 := 0xA5 } ∧
    decodeWide 0xE1712AB5 = .ldrhImm .al { p := true, u := false, w := true, rn := 1, rd := 2, offset8 := 0xA5 } ∧
    decodeWide 0xE1712AD5 = .ldrsbImm .al { p := true, u := false, w := true, rn := 1, rd := 2, offset8 := 0xA5 } ∧
    decodeWide 0xE1712AF5 = .ldrshImm .al { p := true, u := false, w := true, rn := 1, rd := 2, offset8 := 0xA5 } ∧
    decodeWide 0xE1612AD5 = .hdtL0Sh10Imm .al { p := true, u := false, w := true, rn := 1, rd := 2, offset8 := 0xA5 } ∧
    decodeWide 0xE1612AF5 = .hdtL0Sh11Imm .al { p := true, u := false, w := true, rn := 1, rd := 2, offset8 := 0xA5 } := by decide

theorem test_decode_Undefined :
    decodeWide 0xE1812394 = .undefined000 .al { hi := 0x18123, sh := 0, lo := 4 } ∧
    decodeWide 0xE7F000F0 = .undefined011 .al { hi := 0xF8007, lo := 0 } := by decide

theorem test_decode_SingleDataTransfer :
    decodeWide 0xE5212ABC = .str .al { i := false, p := true, u := false, w := true, rn := 1, rd := 2, offset12 := 0xABC } ∧
    decodeWide 0xE5312ABC = .ldr .al { i := false, p := true, u := false, w := true, rn := 1, rd := 2, offset12 := 0xABC } ∧
    decodeWide 0xE5612ABC = .strb .al { i := false, p := true, u := false, w := true, rn := 1, rd := 2, offset12 := 0xABC } ∧
    decodeWide 0xE5712ABC = .ldrb .al { i := false, p := true, u := false, w := true, rn := 1, rd := 2, offset12 := 0xABC } := by decide

theorem test_decode_BlockDataTransfer :
    decodeWide 0xE9418005 = .stm .al { p := true, u := false, s := true, w := false, rn := 1, rlist := 0x8005 } ∧
    decodeWide 0xE9518005 = .ldm .al { p := true, u := false, s := true, w := false, rn := 1, rlist := 0x8005 } := by decide

theorem test_decode_CoprocDataTransfer :
    decodeWide 0xED4123A5 = .stc .al { p := true, u := false, n := true, w := false, rn := 1, crd := 2, cpnum := 3, offset8 := 0xA5 } ∧
    decodeWide 0xED5123A5 = .ldc .al { p := true, u := false, n := true, w := false, rn := 1, crd := 2, cpnum := 3, offset8 := 0xA5 } := by decide

theorem test_decode_CoprocDataOperation :
    decodeWide 0xEE9123A4 = .cdp .al { cpopc := 9, crn := 1, crd := 2, cpnum := 3, cp := 5, crm := 4 } := by decide

theorem test_decode_CoprocRegisterTransfer :
    decodeWide 0xEEC123B4 = .mcr .al { cpopc := 6, crn := 1, rd := 2, cpnum := 3, cp := 5, crm := 4 } ∧
    decodeWide 0xEED123B4 = .mrc .al { cpopc := 6, crn := 1, rd := 2, cpnum := 3, cp := 5, crm := 4 } := by decide

theorem test_decode_SoftwareInterrupt :
    decodeWide 0xEFABCDEF = .swi .al 0xABCDEF := by decide

theorem test_decode_narrow_T1 :
    decodeNarrow 0x0155 = .tLsl 0x155 ∧
    decodeNarrow 0x0955 = .tLsr 0x155 ∧
    decodeNarrow 0x1155 = .tAsr 0x155 := by decide

theorem test_decode_narrow_T2 :
    decodeNarrow 0x1955 = .tAddReg 0x155 ∧
    decodeNarrow 0x1B55 = .tSubReg 0x155 ∧
    decodeNarrow 0x1D55 = .tAddImm3 0x155 ∧
    decodeNarrow 0x1F55 = .tSubImm3 0x155 := by decide

theorem test_decode_narrow_T3 :
    decodeNarrow 0x2155 = .tMovImm 0x155 ∧
    decodeNarrow 0x2955 = .tCmpImm 0x155 ∧
    decodeNarrow 0x3155 = .tAddImm8 0x155 ∧
    decodeNarrow 0x3955 = .tSubImm8 0x155 := by decide

theorem test_decode_narrow_T4 :
    decodeNarrow 0x4015 = .tAndAlu 0x15 ∧
    decodeNarrow 0x4055 = .tEorAlu 0x15 ∧
    decodeNarrow 0x4095 = .tLslAlu 0x15 ∧
    decodeNarrow 0x40D5 = .tLsrAlu 0x15 ∧
    decodeNarrow 0x4115 = .tAsrAlu 0x15 ∧
    decodeNarrow 0x4155 = .tAdcAlu 0x15 ∧
    decodeNarrow 0x4195 = .tSbcAlu 0x15 ∧
    decodeNarrow 0x41D5 = .tRorAlu 0x15 ∧
    decodeNarrow 0x4215 = .tTstAlu 0x15 ∧
    decodeNarrow 0x4255 = .tNegAlu 0x15 ∧
    decodeNarrow 0x4295 = .tCmpAlu 0x15 ∧
    decodeNarrow 0x42D5 = .tCmnAlu 0x15 ∧
    decodeNarrow 0x4315 = .tOrrAlu 0x15 ∧
    decodeNarrow 0x4355 = .tMulAlu 0x15 ∧
    decodeNarrow 0x4395 = .tBicAlu 0x15 ∧
    decodeNarrow 0x43D5 = .tMvnAlu 0x15 := by decide

theorem test_decode_narrow_T5 :
    decodeNarrow 0x4455 = .tAddHi 0x55 ∧
    decodeNarrow 0x4555 = .tCmpHi 0x55 ∧
    decodeNarrow 0x4655 = .tMovHi 0x55 ∧
    decodeNarrow 0x4755 = .tBx 0x55 := by decide

theorem test_decode_narrow_T6 :
    decodeNarrow 0x4955 = .tLdrPc 0x155 := by decide

theorem test_decode_narrow_T7 :
    decodeNarrow 0x5155 = .tStrReg 0x155 ∧
    decodeNarrow 0x5555 = .tStrbReg 0x155 ∧
    decodeNarrow 0x5955 = .tLdrReg 0x155 ∧
    decodeNarrow 0x5D55 = .tLdrbReg 0x155 := by decide

theorem test_decode_narrow_T8 :
    decodeNarrow 0x5355 = .tStrhReg 0x155 ∧
    decodeNarrow 0x5755 = .tLdsbReg 0x155 ∧
    decodeNarrow 0x5B55 = .tLdrhReg 0x155 ∧
    decodeNarrow 0x5F55 = .tLdshReg 0x155 := by decide

theorem test_decode_narrow_T9 :
    decodeNarrow 0x6155 = .tStrImm 0x155 ∧
    decodeNarrow 0x6955 = .tLdrImm 0x155 ∧
    decodeNarrow 0x7155 = .tStrbImm 0x155 ∧
    decodeNarrow 0x7955 = .tLdrbImm 0x155 := by decide

theorem test_decode_narrow_T10 :
    decodeNarrow 0x8155 = .tStrhImm 0x155 ∧
    decodeNarrow 0x8955 = .tLdrhImm 0x155 := by decide

theorem test_decode_narrow_T11 :
    decodeNarrow 0x9155 = .tStrSp 0x155 ∧
    decodeNarrow 0x9955 = .tLdrSp 0x155 := by decide

theorem test_decode_narrow_T12 :
    decodeNarrow 0xA155 = .tAddPc 0x155 ∧
    decodeNarrow 0xA955 = .tAddSp 0x155 := by decide

theorem test_decode_narrow_T13 :
    decodeNarrow 0xB055 = .tAddSpImm 0x55 := by decide

theorem test_decode_narrow_T14 :
    decodeNarrow 0xB555 = .tPush 0x155 ∧
    decodeNarrow 0xBD55 = .tPop 0x155 := by decide

theorem test_decode_narrow_T15 :
    decodeNarrow 0xC155 = .tStmia 0x155 ∧
    decodeNarrow 0xC955 = .tLdmia 0x155 := by decide

theorem test_decode_narrow_T16 :
    decodeNarrow 0xD055 = .tBeq 0x55 ∧
    decodeNarrow 0xD155 = .tBne 0x55 ∧
    decodeNarrow 0xD255 = .tBcs 0x55 ∧
    decodeNarrow 0xD355 = .tBcc 0x55 ∧
    decodeNarrow 0xD455 = .tBmi 0x55 ∧
    decodeNarrow 0xD555 = .tBpl 0x55 ∧
    decodeNarrow 0xD655 = .tBvs 0x55 ∧
    decodeNarrow 0xD755 = .tBvc 0x55 ∧
    decodeNarrow 0xD855 = .tBhi 0x55 ∧
    decodeNarrow 0xD955 = .tBls 0x55 ∧
    decodeNarrow 0xDA55 = .tBge 0x55 ∧
    decodeNarrow 0xDB55 = .tBlt 0x55 ∧
    decodeNarrow 0xDC55 = .tBgt 0x55 ∧
    decodeNarrow 0xDD55 = .tBle 0x55 := by decide

theorem test_decode_narrow_T17 :
    decodeNarrow 0xDF55 = .tSwiThumb 0x55 := by decide

theorem test_decode_narrow_T18 :
    decodeNarrow 0xE155 = .tBThumb 0x155 := by decide

theorem test_decode_narrow_T19 :
    decodeNarrow 0xF155 = .tBlPrefix 0x155 ∧
    decodeNarrow 0xF955 = .tBlSuffix 0x155 := by decide

theorem test_decode_narrow_NarrowUndefined :
    decodeNarrow 0xB155 = .narrowUndefB1 0x55 ∧
    decodeNarrow 0xB255 = .narrowUndefB2 0x55 ∧
    decodeNarrow 0xB355 = .narrowUndefB3 0x55 ∧
    decodeNarrow 0xB655 = .narrowUndefB6 0x55 ∧
    decodeNarrow 0xB755 = .narrowUndefB7 0x55 ∧
    decodeNarrow 0xB855 = .narrowUndefB8 0x55 ∧
    decodeNarrow 0xB955 = .narrowUndefB9 0x55 ∧
    decodeNarrow 0xBA55 = .narrowUndefBa 0x55 ∧
    decodeNarrow 0xBB55 = .narrowUndefBb 0x55 ∧
    decodeNarrow 0xBE55 = .narrowUndefBe 0x55 ∧
    decodeNarrow 0xBF55 = .narrowUndefBf 0x55 ∧
    decodeNarrow 0xDE55 = .narrowUndefDe 0x55 ∧
    decodeNarrow 0xE955 = .narrowUndefE8Ef 0x155 := by decide
/-! ## A step on a small state: the vectors of 95_test_vectors.md -/

/-- The start state of 95_test_vectors.md: every register and flag written and 0, PRESERVE, a ROM of 0x400 bytes. -/
def start : State :=
  { State.reset with params := { Params.default with romSize := 0x400, mulCV := .preserve } }

/-- `start` with the word `w` at address `pc`. -/
def wordAt (pc : Word) (w : Nat) : State := (setPc pc start).withFetchWord 32 w

/-- What a test looks at after a step. -/
def nextPc (r : Result) : Option Word :=
  match r with
  | .next t => some (pcOf t)
  | .fault _ | .refused _ => none

def nextReg (i : Reg) (r : Result) : Option Word :=
  match r with
  | .next t => some (readReg i t)
  | .fault _ | .refused _ => none

def nextFlags (r : Result) : Option (FlagSet Bool) :=
  match r with
  | .next t => some (activeFlags t)
  | .fault _ | .refused _ => none

def nextModes (r : Result) : Option (Mode × InstrSet) :=
  match r with
  | .next t => some (t.mode, t.isa)
  | .fault _ | .refused _ => none

def faultOf (r : Result) : Option Fault :=
  match r with
  | .fault e => some e
  | .next _ | .refused _ => none

def refusalOf (r : Result) : Option Refusal :=
  match r with
  | .refused e => some e
  | .next _ | .fault _ => none

-- F-B: B-1, B-3, B-11
theorem test_b_forward : nextPc (step (wordAt 0x08000000 0xEA000005)) = some 0x08000014 := by decide
theorem test_b_wraps : nextPc (step (wordAt 0x00000000 0xEAFFFFFE)) = some 0xFFFFFFF8 := by decide

-- R151's example
theorem test_bl_links : nextReg 14 (step (wordAt 0x08000010 0xEB000003)) = some 0x08000014 := by decide
theorem test_bl_target : nextPc (step (wordAt 0x08000010 0xEB000003)) = some 0x0800001C := by decide

-- L1.6
theorem test_bx_odd : nextModes (step (writeReg 0 0x08000101 (wordAt 0x08000000 0xE12FFF10))) =
    some (.supervisor, .narrow) := by decide
theorem test_bx_keeps_bit0 : nextPc (step (writeReg 0 0x08000101 (wordAt 0x08000000 0xE12FFF10))) =
    some 0x08000101 := by decide

-- L1.7
theorem test_bx_r15_mode : nextModes (step (wordAt 0x08000000 0xE12FFF1F)) = some (.undefined, .wide) := by decide
theorem test_bx_r15_holds : nextPc (step (wordAt 0x08000000 0xE12FFF1F)) = some 0x08000000 := by decide

-- L1.8, R162
theorem test_mul : nextReg 2 (step (writeReg 0 3 (writeReg 1 5 (wordAt 0x08000000 0xE0020190)))) = some 15 := by decide
theorem test_mul_wraps :
    nextReg 2 (step (writeReg 0 0xFFFFFFFF (writeReg 1 0xFFFFFFFF (wordAt 0x08000000 0xE0020190)))) = some 1 := by decide

-- L1.9; R163's example of a negative result (MULS r2, r0, r1)
theorem test_mla : nextReg 3 (step (writeReg 0 3 (writeReg 1 5 (writeReg 2 7 (wordAt 0x08000000 0xE0232190))))) =
    some 22 := by decide
theorem test_muls_negative : nextFlags (step (writeReg 0 0x80000000 (writeReg 1 1 (wordAt 0x08000000 0xE0120190)))) =
    some { n := true, z := false, c := false, v := false } := by decide

-- F-COND: COND-4, COND-6, COND-7
/-- `wordAt` with no register or flag written but the counter (P_RESET_REGS = UNWRITTEN). -/
def unwrittenAt (pc : Word) (w : Nat) : State := { wordAt pc w with written := resetMarks .unwritten }

theorem test_unwritten_flag : faultOf (step (unwrittenAt 0 0x0A000005)) =
    some (.unwrittenRead (.flag .supervisor .z)) := by decide
theorem test_never_reads_no_flag : nextPc (step (unwrittenAt 0 0xF0000000)) = some 4 := by decide
theorem test_flag_order : faultOf (step (setFlag .z false (unwrittenAt 0 0xC0020190))) =
    some (.unwrittenRead (.flag .supervisor .n)) := by decide

-- F-RESET: RESET-5 (ZERO, which is State.reset) and RESET-4 (UNWRITTEN), on the same boot word
theorem test_reset_reads_zero :
    nextReg 2 (step (State.reset.withFetchWord 32 0xE0020190)) = some 0 ∧
    nextPc (step (State.reset.withFetchWord 32 0xE0020190)) = some 4 := by decide
theorem test_reset_unwritten : faultOf (step (unwrittenAt 0 0xE0020190)) = some (.unwrittenRead (.reg (.gpr 0))) := by decide

-- P6
theorem test_unwritten_operand : faultOf (step (writeReg 0 2 (unwrittenAt 0x08000000 0xE0020190))) =
    some (.unwrittenRead (.reg (.gpr 1))) := by decide

-- R170's and R173's examples, UNIMP-7, P3
theorem test_mov_unimplemented : refusalOf (step (wordAt 0x08000000 0xE3A00001)) =
    some (.unimplemented (.wide .dataProcessing) 0xE3A00001 0x08000000) := by decide
theorem test_moveq_fails : nextPc (step (wordAt 0x100 0x03A00001)) = some 0x104 := by decide
theorem test_undefined_class : refusalOf (step (wordAt 0x08000000 0xE7F000F0)) =
    some (.unimplemented (.wide .undefined) 0xE7F000F0 0x08000000) := by decide
theorem test_narrow_unaligned : refusalOf (step ((setPc 0x08000009 start).withFetchWord 16 0x4770)) =
    some (.unimplemented (.narrow .t5) 0x4770 0x08000009) := by decide

-- MEM-10
theorem test_fetch_fault : faultOf (step (setPc 0x080003FE start)) = some (.fetchFault 0x08000400) := by decide
theorem test_fetch_hole : faultOf (step (setPc 0x0E000000 start)) = some (.fetchFault 0x0E000000) := by decide

/-! ## Memory: MEM-1 to MEM-9 -/

/-- What a read answers after a write. -/
def readAfter (a : Word) (w : Width) (r : Except PortFault State) : Option Word :=
  match r with
  | .ok t => (memRead a w t).toOption
  | .error _ => none

def rawAfter (a : Word) (w : Width) (r : Except PortFault State) : Option Word :=
  match r with
  | .ok t => (rawRead a w t).toOption
  | .error _ => none

/-- The error an operation ends in. -/
def errorOf {ε α : Type} (r : Except ε α) : Option ε :=
  match r with
  | .ok _ => none
  | .error e => some e

def displayAfterWrite (r : Except PortFault State) : Option DisplayStatus :=
  match r with
  | .ok t => some t.ds
  | .error _ => none

theorem test_resolve :
    (resolve start.params 0x00003FFF).toOption = some ⟨0x00003FFF, .boot, 0x3FFF⟩ ∧
    errorOf (resolve start.params 0x00004000) = some (.outOfRange 0x00004000) ∧
    (resolve start.params 0x02FFFFFF).toOption = some ⟨0x02FFFFFF, .wram1, 0x3FFFF⟩ := by decide
theorem test_resolve_io :
    (resolve start.params 0x03FFFFFC).toOption = some ⟨0x03FFFFFC, .wram2, 0x7FFC⟩ ∧
    errorOf (resolve start.params 0x04000400) = some (.outOfRange 0x04000400) := by decide
theorem test_vram_fold :
    vramFold start.params 0x18000 = 0x10000 ∧ vramFold start.params 0x38000 = 0x10000 ∧
    vramFold { start.params with vramMirror := .mod96 } 0x38000 = 0x8000 := by decide
theorem test_resolve_rom :
    (resolve start.params 0x0A000010).toOption = some ⟨0x0A000010, .rom, 0x10⟩ ∧
    errorOf (resolve start.params 0x08000400) = some (.outOfRange 0x08000400) := by decide

theorem test_mirror_round_trip : readAfter 0x02040100 .word (memWrite 0x02000100 .word 0x11223344 start) =
    some 0x11223344 := by decide
theorem test_raw_at_resolved : rawAfter 0x03000010 .word (memWrite 0x03008010 .word 0xDEADBEEF start) =
    some 0xDEADBEEF := by decide
theorem test_write_all_or_nothing : errorOf (memWrite 0x040003FE .word 0xAABBCCDD start) = some (.outOfRange 0x04000400) := by
  decide
theorem test_wrap_faults : errorOf (memWrite 0xFFFFFFFE .word 0x12345678 start) = some (.outOfRange 0xFFFFFFFE) := by decide
theorem test_raw_not_canonical : errorOf (rawRead 0x06018000 .byte start) = some (.outOfRange 0x06018000) := by decide

theorem test_dispcnt : displayAfterWrite (memWrite 0x04000000 .half 0x1F43 start) =
    some { start.ds with bgMode := 3, objMapping := true, bgEnable := #v[true, true, true, true], objEnable := true } := by
  decide
theorem test_waitcnt : displayAfterWrite (memWrite 0x04000204 .half 0x4317 start) =
    some { start.ds with wsN := 3, wsS := 1 } := by decide
theorem test_bgcnt : (displayAfterWrite (memWrite 0x04000008 .word 0xC1238F5E start)).map (fun d => (d.bg[0], d.bg[1])) =
    some ({ priority := 2, charBase := 3, mosaic := true, colorDepth := false, screenBase := 0xF, size := 2 },
      { priority := 3, charBase := 0, mosaic := false, colorDepth := false, screenBase := 1, size := 3 }) := by decide
theorem test_bgcnt_siblings :
    (displayAfterWrite (memWrite 0x0400000C .byte 0x03 start)).map
      (fun d => (d.bg[0], d.bg[2].priority, d.bg[3])) = some (BgControl.reset, 3, BgControl.reset) := by decide
theorem test_dispstat :
    readAfter 0x04000004 .word (memWrite 0x04000004 .half 0xFFFF (driveDisplay true false 0x9F start)) =
      some 0x009FFF01 ∧
    rawAfter 0x04000004 .half (memWrite 0x04000004 .half 0xFFFF (driveDisplay true false 0x9F start)) = some 0xFFFF := by
  decide
theorem test_rom_anomaly :
    (match memWrite 0x0A000010 .half 0xBEEF start with
      | .ok t => t.anomalies
      | .error _ => []) = [⟨0x0A000010, 0x10, 0xEF⟩, ⟨0x0A000011, 0x11, 0xBE⟩] := by decide

/-! ## The decoder's primitives -/

theorem test_extract_bits :
    extractBits 0xE12FFF1E 31 28 = 0xE ∧ extractBits 0xE12FFF1E 28 31 = 0xE ∧ extractBits 0xE12FFF1E 27 20 = 0x12 ∧
    extractBits 0xEAFFFFF6 23 0 = 0xFFFFF6 := by decide
theorem test_truncated : errorOf (decode .wide [0x05, 0x00, 0x00]) = some .truncated ∧
    errorOf (decode .narrow [0x70]) = some .truncated := by decide
theorem test_bytes_decode : (decode .wide [0x05, 0x00, 0x00, 0xEA, 0xFF]).toOption =
    some (.b .al 5, [0xFF]) := by decide
theorem test_table_word : decodeTableWord 32 0xE0020190 =
    some (.mul .al { s := false, rd := 2, rn := 0, rs := 1, rm := 0 }) ∧
    decodeTableWord 16 0x4770 = some (.tBx 0x70) := by decide
theorem test_dp_immediate : dpImmediate 0x4FF = 0xFF000000 ∧ dpImmediate 0x001 = 1 := by decide

/-! ## Modes and the loader -/

theorem test_mode_banks :
    readReg 13 (switchOperatingMode .user (writeReg 13 7 start)) = 0 ∧
    readReg 13 (switchOperatingMode .supervisor (switchOperatingMode .user (writeReg 13 7 start))) = 7 := by decide
theorem test_mode_encodings : modeOfBits 0b10000 = .user ∧ modeOfBits 0b11111 = .undefined ∧
    modeOfBits 0b00000 = .undefined := by decide
theorem test_flag_word : hostFlagWord (setFlagWord 0xA0000001 start) = some 0xA0000000 ∧
    hostFlagWord (unwrittenAt 0 0) = none := by decide

/-- The smallest session: an all-zero boot image and a ROM of one byte. -/
def tiny : Launch where
  bootImage := List.replicate 0x4000 0
  romImage := [0x5A]
  resetPc := 0x08000000
  resetMode := .user
  resetRegs := .unwritten
  vramMirror := .gba128
  waitcntBackingWrite := true
  displayBackingWrite := false
  mulCV := .draw

theorem tiny_launches : launch tiny = .ok (launchState tiny) := by
  unfold launch
  rw [if_pos (show tiny.bootImage.length = 0x4000 from List.length_replicate), if_pos (by decide)]
theorem test_empty_rom : launch { tiny with romImage := [] } = .error .badRomImage := by
  unfold launch
  rw [if_pos (show tiny.bootImage.length = 0x4000 from List.length_replicate), if_neg (by decide)]
theorem test_short_boot : errorOf (launch { tiny with bootImage := [0] }) = some .badBootImage := by decide
/-! ## Witnesses: for every statement with hypotheses, a concrete state and operands that meet them together -/

/-- P4's word at `pc`, with the Supervisor Z set and the Undefined Z as given. -/
def hangAt (w : Nat) (z : Bool) : State :=
  switchOperatingMode .supervisor
    (setFlag .z z (switchOperatingMode .undefined (setFlag .z true (wordAt 0x08000000 w))))

/-- A Narrow state whose next halfword is T5. -/
def narrowAt : State := (setPc 0x08000009 start).withFetchWord 16 0x4770

/-- A state with an odd value in r0. -/
def oddState : State := writeReg 0 0x08000101 start

theorem not_ok_of_error {ε α : Type} {x : Except ε α} {e : ε} (h : x = .error e) : ¬ ∃ a, x = .ok a := by
  rintro ⟨a, ha⟩; rw [h] at ha; cases ha

theorem isOk_of_toOption {ε α : Type} {x : Except ε α} {a : α} (h : x.toOption = some a) : x = .ok a := by
  cases x with
  | ok b => simp [Except.toOption] at h; rw [h]
  | error e => simp [Except.toOption] at h

theorem error_of_errorOf {ε α : Type} {x : Except ε α} {e : ε} (h : errorOf x = some e) : x = .error e := by
  cases x with
  | ok b => simp [errorOf] at h
  | error d => simp [errorOf] at h; rw [h]

-- Encoding
theorem witness_ExtractBits : (0 : Fin 32) ≤ 0 ∧ (0 : Fin 32) ≤ 31 ∧ (31 : Fin 32) ≤ 31 := by decide
theorem witness_WideClassesPartition :
    inWideClass 0xE12FFF1F .branchExchange = true ∧
    (0xE12FFF1F#32).extractLsb' 0 28 = (0x012FFF1F#32).extractLsb' 0 28 := by decide
theorem witness_NarrowUndefinedHighBytes :
    (Instr.tLsl 0).isa = .narrow ∧ (Instr.tLsl 0).cls ≠ .narrow .undefined ∧
    (decodeNarrow 0xB100).cls = .narrow .undefined ∧ (decodeNarrow 0xEFFF).cls = .narrow .undefined := by decide
theorem witness_NarrowRowsPartition : (Instr.narrowUndefE8Ef 0x7FF).isa = .narrow := by decide
theorem witness_DecodeOfEncode :
    (Instr.bx .al 14).WellFormed ∧ (Instr.undefined000 .nv { hi := 0x1FFFF, sh := 0, lo := 15 }).WellFormed ∧
    (Instr.msrImm .al true 15 0xFFF).WellFormed ∧ (Instr.tPop 0x1FF).WellFormed := by decide

-- Conditions
theorem witness_ConditionTable : evalCond .le start = .ok false ∧ evalCond .gt start = .ok true := ⟨rfl, rfl⟩
theorem witness_ConditionFailedAdvances : (Instr.swi .eq 0).cond = some .eq ∧ CondFails .eq start ∧
    (Instr.b .nv 0).cond = some .nv ∧ CondFails .nv (unwrittenAt 0 0) := ⟨rfl, rfl, rfl, rfl⟩

-- Branches
theorem witness_BranchJumps : 0xEA7FFFFF &&& 0x0F000000 = 0x0A000000#32 ∧ CondPasses .al start ∧
    CondPasses .al (unwrittenAt 0xFFFFFFFC 0) := ⟨by decide, rfl, rfl⟩
theorem witness_BranchLinks : 0xFB800000 &&& 0x0F000000 = 0x0B000000#32 ∧ CondPasses .ne start := ⟨by decide, rfl⟩
theorem witness_BranchExchanges :
    (0xE12FFF1E &&& 0x0FFFFFF0 = 0x012FFF10#32 ∧ (0xE12FFF1E#32).extractLsb' 0 4 ≠ 15) ∧
    CondPasses .al oddState ∧ (0 : Reg) ≠ 15 ∧ Readable 0 oddState ∧ (14 : Reg) ≠ 15 ∧ Readable 14 oddState :=
  ⟨by decide, rfl, by decide, by decide, by decide, by decide⟩
theorem witness_InvalidExchange : 0xE12FFF1F &&& 0x0FFFFFFF = 0x012FFF1F#32 ∧ CondPasses .al start ∧
    start.mode ≠ .undefined ∧ (switchOperatingMode .undefined start).mode = .undefined ∧ CondFails .eq start :=
  ⟨by decide, rfl, by decide, rfl, rfl⟩
theorem witness_InvalidExchangeHangs_fails :
    Fetches (hangAt 0x012FFF1F false) (.bxR15 .eq) ∧ CondPasses .eq (hangAt 0x012FFF1F false) ∧
    CondFails .eq { hangAt 0x012FFF1F false with mode := .undefined } :=
  ⟨isOk_of_toOption (by decide), isOk_of_toOption (by decide), isOk_of_toOption (by decide)⟩
theorem witness_InvalidExchangeHangs_loops :
    Fetches (hangAt 0x012FFF1F true) (.bxR15 .eq) ∧ CondPasses .eq (hangAt 0x012FFF1F true) ∧
    CondPasses .eq { hangAt 0x012FFF1F true with mode := .undefined } :=
  ⟨isOk_of_toOption (by decide), isOk_of_toOption (by decide), isOk_of_toOption (by decide)⟩
theorem witness_InvalidExchangeHangs_unwritten :
    Fetches (setFlag .z true (unwrittenAt 0x08000000 0x012FFF1F)) (.bxR15 .eq) ∧
    CondPasses .eq (setFlag .z true (unwrittenAt 0x08000000 0x012FFF1F)) ∧
    evalCond .eq { setFlag .z true (unwrittenAt 0x08000000 0x012FFF1F) with mode := .undefined } =
      .error (.unwrittenRead (.flag .undefined .z)) :=
  ⟨isOk_of_toOption (by decide), isOk_of_toOption (by decide), error_of_errorOf (by decide)⟩
theorem witness_InvalidExchangeHangs_always : Fetches (wordAt 0x08000000 0xE12FFF1F) (.bxR15 .al) ∧ (1 : Nat) ≤ 1 :=
  ⟨isOk_of_toOption (by decide), Nat.le_refl 1⟩
theorem witness_CallReturns : ∃ t, CondPasses .al start ∧ exec (.bl .al 3) start = .next t ∧ t.mode = t.mode ∧
    SameReg t t (.r14 t.mode) ∧ CondPasses .al t ∧ (pcOf start).getLsbD 0 = false :=
  ⟨_, rfl, rfl, rfl, ⟨rfl, rfl⟩, rfl, rfl⟩

-- Multiply
theorem witness_MulExecutes : 0xE0120190 &&& 0x0FE000F0 = 0x00000090#32 ∧ CondPasses .al start ∧ Readable 0 start ∧
    Readable 15 start := ⟨by decide, rfl, by decide, by decide⟩
theorem witness_MlaExecutes : 0xE0232190 &&& 0x0FE000F0 = 0x00200090#32 ∧ CondPasses .al start ∧ Readable 0 start ∧
    Readable 13 start ∧ Readable 15 start := ⟨by decide, rfl, by decide, by decide, by decide⟩
/-- MULS r15, r0, r1. -/
def mulsPc : MulFields := { s := true, rd := 15, rn := 0, rs := 1, rm := 0 }
theorem witness_MultiplyFlagRule :
    (Instr.mla .al mulsPc = .mul .al mulsPc ∨ Instr.mla .al mulsPc = .mla .al mulsPc) ∧ CondPasses .al start ∧
    Readable mulsPc.rm start ∧ Readable mulsPc.rs start ∧ Readable mulsPc.rn start ∧ mulsPc.s = true ∧
    start.params.mulCV = .preserve ∧ State.reset.params.mulCV = .draw :=
  ⟨.inr rfl, rfl, by decide, by decide, by decide, rfl, rfl, rfl⟩
theorem witness_DrawnFlags : ∃ t, CondPasses .al State.reset ∧ exec (.mul .al mulsPc) State.reset = .next t ∧
    mulsPc.s = true ∧ State.reset.params.mulCV = .draw := ⟨_, rfl, rfl, rfl, rfl⟩
theorem witness_DrawnFlags_none : ∃ t, CondPasses .al start ∧ exec (.mla .al mulsPc) start = .next t ∧
    start.params.mulCV = .preserve := ⟨_, rfl, rfl, rfl⟩
theorem witness_MultiplyArithmetic : CondPasses .al start ∧ Readable 15 start ∧ Readable 13 start ∧ Readable 0 start ∧
    readReg 0 start = 0 := ⟨rfl, by decide, by decide, by decide, by decide⟩
theorem witness_UnwrittenOperandFaults :
    CondPasses .al (unwrittenAt 0 0) ∧ (0 : Reg) ≠ 15 ∧ ¬ Readable 0 (unwrittenAt 0 0) ∧
    Readable 0 (writeReg 0 2 (unwrittenAt 0 0)) ∧ ¬ Readable 1 (writeReg 0 2 (unwrittenAt 0 0)) ∧
    Readable 15 (unwrittenAt 0 0) := ⟨rfl, by decide, by decide, by decide, by decide, by decide⟩

-- Classes with no handler
theorem witness_WideWithoutHandler :
    (Instr.swi .al 0).cls = .wide .softwareInterrupt ∧
    WideClass.softwareInterrupt ∉ [WideClass.branch, WideClass.branchExchange, WideClass.multiply] ∧
    (Instr.swi .al 0).cond = some .al ∧ CondPasses .al start ∧ (Instr.swi .eq 0).cond = some .eq ∧ CondFails .eq start ∧
    refusalOf (exec (.swi .al 0) start) = some (.unimplemented (.wide .softwareInterrupt) 0xEF000000 0) :=
  ⟨by decide, by decide, by decide, rfl, by decide, rfl, by decide⟩
theorem witness_UnimplementedStub :
    (wordAt 0x08000000 0xEF000000).isa = .wide ∧
    (memRead (pcOf (wordAt 0x08000000 0xEF000000)) .word (wordAt 0x08000000 0xEF000000)).toOption = some 0xEF000000 ∧
    inWideClass 0xEF000000 .softwareInterrupt = true ∧ condOf 0xEF000000 = .al ∧
    narrowAt.isa = .narrow ∧ (memRead (pcOf narrowAt) .half narrowAt).toOption = some 0x4770 := by decide
theorem witness_NarrowStops : (Instr.tLsl 0).isa = .narrow ∧ (Instr.narrowUndefE8Ef 0).isa = .narrow := by decide
theorem witness_NarrowLockIn :
    CondPasses .al oddState ∧ (0 : Reg) ≠ 15 ∧ Readable 0 oddState ∧ (readReg 0 oddState).getLsbD 0 = true ∧
    narrowAt.isa = .narrow ∧ RunsTo 0 narrowAt narrowAt ∧
    ∃ t, hostAct (.switchInstrSet .wide) narrowAt = .ok t ∧ t.isa = .wide :=
  ⟨rfl, by decide, by decide, by decide, by decide, rfl, _, rfl, rfl⟩

-- The register file and the processor state
theorem witness_RegisterPorts : (15 : Reg) = 15 ∧ hostReadReg 15 start = some 0 ∧
    (hostReadReg 14 (launchState tiny) = none ∧ isWritten (.reg (regSlot .user 14)) (launchState tiny) = false) := by decide
theorem witness_ProcessorStatePorts :
    0b11111#5 ∉ [0b10000#5, 0b10001#5, 0b10010#5, 0b10011#5, 0b10111#5] ∧
    0b11011#5 ∉ [0b10000#5, 0b10001#5, 0b10010#5, 0b10011#5, 0b10111#5] := by decide
theorem witness_FlagPorts : Mode.user ≠ start.mode ∧ (start.mode ≠ start.mode ∨ Flag.z ≠ Flag.n) ∧
    hostGetFlag .z start = some false ∧ hostFlagWord start = some 0 ∧
    (hostGetFlag .v (launchState tiny) = none ∧ isWritten (.flag .user .v) (launchState tiny) = false) ∧
    hostFlagWord (setFlag .n true (launchState tiny)) = none := by decide

-- The address decoder
theorem witness_RamMirroring :
    Region.wram1 ∈ [Region.wram1, Region.wram2, Region.palette, Region.oam] ∧
    regionBase .wram1 ≤ (0x02000000#32).toNat ∧ (0x02FFFFFF#32).toNat < regionBase .wram1 + 0x01000000 := by decide
theorem witness_VramMirroring :
    0x06000000 ≤ (0x06000000#32).toNat ∧ (0x06FFFFFF#32).toNat < 0x07000000 ∧ start.params.vramMirror = .gba128 ∧
    0x17FFF % 0x20000 < 0x18000 ∧ 0x18000 ≤ 0x18000 % 0x20000 ∧
    ({ start.params with vramMirror := .mod96 } : Params).vramMirror = .mod96 := by decide
theorem witness_RomAliasesAndHoles :
    (0x0C000000 ∈ [0x08000000, 0x0A000000, 0x0C000000] ∧ 0x0C000000 ≤ (0x0C000000#32).toNat ∧
      (0x0DFFFFFF#32).toNat < 0x0C000000 + 0x02000000) ∧
    (0x04000000 ≤ (0x04000400#32).toNat ∧ (0x04000400#32).toNat < 0x05000000) ∧
    (0x01FFFFFF#32).toNat < 0x02000000 ∧ 0x0E000000 ≤ (0x0E000000#32).toNat := by decide
theorem witness_ResolvesToOneByte :
    (resolve start.params 0x02000000).toOption = some ⟨0x02000000, .wram1, 0⟩ ∧
    (resolve start.params 0x02040000).toOption = some ⟨0x02040000, .wram1, 0⟩ := by decide
theorem witness_CanonicalAreResolved :
    start.params.romSize ≤ maxRomSize ∧ (rawResolve start.params 0x02000000).toOption = some ⟨0x02000000, .wram1, 0⟩ := by
  decide

-- The load/store controller
theorem witness_AccessFaultsAtFirstBadByte :
    2 < Width.word.bytes ∧ (resolve start.params (0x080003FE + BitVec.ofNat 32 0)).toOption.isSome = true ∧
    (resolve start.params (0x080003FE + BitVec.ofNat 32 1)).toOption.isSome = true ∧
    ¬ ∃ l, resolve start.params (0x080003FE + BitVec.ofNat 32 2) = .ok l :=
  ⟨by decide, by decide, by decide, not_ok_of_error (error_of_errorOf (e := .outOfRange 0x08000400) (by decide))⟩
theorem witness_RawWriteStoresBytes_fault :
    1 < Width.half.bytes ∧ (rawResolve start.params (0x02040000 - 1 + BitVec.ofNat 32 0)).toOption.isSome = true ∧
    ¬ ∃ l, rawResolve start.params (0x02040000 - 1 + BitVec.ofNat 32 1) = .ok l :=
  ⟨by decide, by decide, not_ok_of_error (error_of_errorOf (e := .outOfRange 0x02040000) (by decide))⟩
theorem witness_AccessComposesBytes_write :
    (∀ k, k < Width.word.bytes → ∃ l, resolve start.params (0x04000008 + BitVec.ofNat 32 k) = .ok l) ∧
    (∃ t, memWrite 0x04000008 .word 0x43218765 start = .ok t ∧
      t.ds.bg[0].size = 2 ∧ t.ds.bg[0].priority = 1 ∧ t.ds.bg[1].size = 1 ∧ t.ds.bg[1].priority = 1) := by
  refine ⟨fun k hk => ?_, ⟨_, rfl, by decide⟩⟩
  have hk4 : k < 4 := hk
  rcases (by omega : k = 0 ∨ k = 1 ∨ k = 2 ∨ k = 3) with rfl | rfl | rfl | rfl <;> exact ⟨_, rfl⟩
theorem witness_AccessComposesBytes :
    1 < Width.word.bytes ∧ (readByteP (0x080003FF + BitVec.ofNat 32 0) start).toOption = some 0 ∧
    errorOf (readByteP (0x080003FF + BitVec.ofNat 32 1) start) = some (.outOfRange 0x08000400) := by decide
theorem witness_DisplayRegisterWrites : Memory.wf start.mem = true := rfl
theorem witness_WaitcntWrites : Memory.wf (wordAt 0x08000000 0xE12FFF1F).mem = true := by decide
theorem witness_LiveInputReads : Memory.wf start.mem = true ∧
    0x04000007#32 ∈ [0x04000004#32, 0x04000005#32, 0x04000006#32, 0x04000007#32] ∧ 0x04000007#32 ≠ 0x04000005#32 ∧
    0x04000005#32 ∈ [0x04000004#32, 0x04000005#32, 0x04000006#32, 0x04000007#32] ∧
    0x04000005#32 ∉ [0x04000004#32, 0x04000006#32, 0x04000007#32] :=
  ⟨rfl, by decide, by decide, by decide, by decide⟩
theorem witness_RomWriteLogged : Memory.wf start.mem = true ∧
    (resolve start.params 0x0A0003FF).toOption = some ⟨0x0A0003FF, .rom, 0x3FF⟩ := ⟨rfl, by decide⟩
theorem witness_WriteIsolation_dispcnt :
    (∃ t, writeByteP 0x04000000 0xFF start = .ok t) ∧
    (resolve start.params 0x04000000).toOption = some ⟨0x04000000, .io, 0x000⟩ ∧
    (∃ t, writeByteP 0x04000001 0xFF start = .ok t) ∧
    (resolve start.params 0x04000001).toOption = some ⟨0x04000001, .io, 0x001⟩ :=
  ⟨⟨_, rfl⟩, by decide, ⟨_, rfl⟩, by decide⟩
theorem witness_WriteIsolation_bgcnt :
    (∃ t, writeByteP 0x04000008 0xFF start = .ok t) ∧
    (resolve start.params 0x04000008).toOption = some ⟨0x04000008, .io, 0x008⟩ ∧ 0x008 % 2 = 0 ∧
    (0 : Fin 4).val = (0x008 - 8) / 2 ∧ (3 : Fin 4).val ≠ (0x008 - 8) / 2 ∧
    (∃ t, writeByteP 0x0400000F 0xFF start = .ok t) ∧
    (resolve start.params 0x0400000F).toOption = some ⟨0x0400000F, .io, 0x00F⟩ ∧ 0x00F % 2 ≠ 0 ∧
    (3 : Fin 4).val = (0x00F - 8) / 2 ∧ (0 : Fin 4).val ≠ (0x00F - 8) / 2 :=
  ⟨⟨_, rfl⟩, by decide, by decide, by decide, by decide, ⟨_, rfl⟩, by decide, by decide, by decide, by decide⟩
theorem witness_WriteIsolation_waitcnt :
    (∃ t, writeByteP 0x04000204 0x14 start = .ok t) ∧
    (resolve start.params 0x04000204).toOption = some ⟨0x04000204, .io, 0x204⟩ ∧
    (∃ t, writeByteP 0x04000205 0x14 start = .ok t) ∧
    (resolve start.params 0x04000205).toOption = some ⟨0x04000205, .io, 0x205⟩ ∧
    0x205 ∉ [0x000, 0x001, 0x204] ∧ ¬ (0x008 ≤ 0x205 ∧ 0x205 ≤ 0x00F) :=
  ⟨⟨_, rfl⟩, by decide, ⟨_, rfl⟩, by decide, by decide, by decide⟩
theorem witness_WriteIsolation_regions :
    (∃ t, writeByteP 0x080003FF 0x14 start = .ok t) ∧ Region.rom ≠ .io ∧
    (∃ t, writeByteP 0x02000000 0x14 start = .ok t) ∧ Region.wram1 ≠ .rom :=
  ⟨⟨_, rfl⟩, by decide, ⟨_, rfl⟩, by decide⟩
theorem witness_RawWriteStoresBytes : Memory.wf start.mem = true ∧ start.params.romSize ≤ maxRomSize ∧
    (∃ t, rawWrite 0x08000020 .byte 0x5A start = .ok t) ∧ 0x08000000 ≤ (0x08000020#32).toNat :=
  ⟨rfl, by decide, ⟨_, rfl⟩, by decide⟩
theorem witness_MirrorRoundTrip_regions :
    Region.oam ∈ [Region.wram1, Region.wram2, Region.palette, Region.oam] ∧ regionBase .oam ≤ (0x07000000#32).toNat ∧
    (0x07000000#32).toNat + regionSize start.params .oam < regionBase .oam + 0x01000000 ∧
    (0x07000400#32).toNat = (0x07000000#32).toNat + regionSize start.params .oam ∧
    0x06000000 ≤ (0x06010000#32).toNat ∧ (0x06030000#32).toNat < 0x07000000 ∧
    (0x06030000#32).toNat = (0x06010000#32).toNat + (if start.params.vramMirror = .gba128 then 0x20000 else 0x18000) := by
  decide

theorem byte_offset {k : Nat} (h : k < Width.half.bytes) : k = 0 ∨ k = 1 := by
  simp only [Width.bytes] at h; omega

theorem resolves_only {p : Params} {a : Word} {l m : Loc} (h : resolve p a = .ok l)
    (e : (resolve p a).toOption = some m) : l = m := by
  rw [h] at e; exact Option.some.inj e

theorem witness_MirrorRoundTrip : Memory.wf start.mem = true ∧ SameBytes start.params .half 0x02000100 0x02040100 ∧
    PlainBytes start.params .half 0x02000100 ∧ ∃ t, memWrite 0x02000100 .half 0x3344 start = .ok t := by
  refine ⟨rfl, fun k hk l hl => ?_, fun k hk l hl => ?_, ⟨_, rfl⟩⟩
  · rcases byte_offset hk with rfl | rfl
    · cases resolves_only hl (m := ⟨0x02000100, .wram1, 0x100⟩) (by decide)
      exact ⟨⟨0x02040100, .wram1, 0x100⟩, isOk_of_toOption (by decide), rfl, rfl⟩
    · cases resolves_only hl (m := ⟨0x02000101, .wram1, 0x101⟩) (by decide)
      exact ⟨⟨0x02040101, .wram1, 0x101⟩, isOk_of_toOption (by decide), rfl, rfl⟩
  · rcases byte_offset hk with rfl | rfl
    · cases resolves_only hl (m := ⟨0x02000100, .wram1, 0x100⟩) (by decide)
      exact fun h => Region.noConfusion h.1
    · cases resolves_only hl (m := ⟨0x02000101, .wram1, 0x101⟩) (by decide)
      exact fun h => Region.noConfusion h.1
theorem witness_RawReadAgrees : Memory.wf start.mem = true ∧ PlainBytes start.params .half 0x02040100 ∧
    resolve start.params 0x02040100 = .ok ⟨0x02040100, .wram1, 0x100⟩ ∧
    (∀ k, k < Width.half.bytes → ∃ m, resolve start.params (0x02040100 + BitVec.ofNat 32 k) = .ok m ∧
      resolvedAddr m = resolvedAddr ⟨0x02040100, .wram1, 0x100⟩ + k) ∧
    ∃ t, memWrite 0x02040100 .half 0x3344 start = .ok t := by
  refine ⟨rfl, fun k hk l hl => ?_, isOk_of_toOption (by decide), fun k hk => ?_, ⟨_, rfl⟩⟩
  · rcases byte_offset hk with rfl | rfl
    · cases resolves_only hl (m := ⟨0x02040100, .wram1, 0x100⟩) (by decide)
      exact fun h => Region.noConfusion h.1
    · cases resolves_only hl (m := ⟨0x02040101, .wram1, 0x101⟩) (by decide)
      exact fun h => Region.noConfusion h.1
  · rcases byte_offset hk with rfl | rfl
    · exact ⟨⟨0x02040100, .wram1, 0x100⟩, isOk_of_toOption (by decide), rfl⟩
    · exact ⟨⟨0x02040101, .wram1, 0x101⟩, isOk_of_toOption (by decide), rfl⟩

-- The step
/-- `start` about to run from work RAM. -/
def inRam : State := setPc 0x03000000 start

theorem witness_FetchReadsAtCounter :
    ([0x05, 0x00, 0x00, 0xEA] : List Byte).length = 4 ∧
    (readByteP (0x08000000 + BitVec.ofNat 32 0) (wordAt 0x08000000 0xEA000005)).toOption = some 0x05 ∧
    (readByteP (0x08000000 + BitVec.ofNat 32 3) (wordAt 0x08000000 0xEA000005)).toOption = some 0xEA ∧
    (readByteP (0x080003FE + BitVec.ofNat 32 1) (setPc 0x080003FE start)).toOption = some 0 ∧
    errorOf (readByteP (0x080003FE + BitVec.ofNat 32 2) (setPc 0x080003FE start)) = some (.outOfRange 0x08000400) := by
  decide
theorem witness_StepRunsFetched :
    ([0x05, 0x00, 0x00, 0xEA] : List Byte).length = (wordAt 0x08000000 0xEA000005).isa.bytes ∧
    (readByteP (0x08000000 + BitVec.ofNat 32 0) (wordAt 0x08000000 0xEA000005)).toOption = some 0x05 ∧
    (readByteP (0x08000000 + BitVec.ofNat 32 1) (wordAt 0x08000000 0xEA000005)).toOption = some 0x00 ∧
    (readByteP (0x08000000 + BitVec.ofNat 32 2) (wordAt 0x08000000 0xEA000005)).toOption = some 0x00 ∧
    (readByteP (0x08000000 + BitVec.ofNat 32 3) (wordAt 0x08000000 0xEA000005)).toOption = some 0xEA ∧
    (decode .wide [0x05, 0x00, 0x00, 0xEA]).toOption = some (.b .al 5, []) := by decide
theorem witness_StepOutcomes :
    nextPc (step (wordAt 0x08000000 0xEA000005)) = some 0x08000014 ∧
    refusalOf (step narrowAt) = some (.unimplemented (.narrow .t5) 0x4770 0x08000009) ∧
    faultOf (step (unwrittenAt 0 0x0A000005)) = some (.unwrittenRead (.flag .supervisor .z)) := by decide

theorem next_of_pc {r : Result} {v : Word} (h : nextPc r = some v) : ∃ t, r = .next t ∧ pcOf t = v := by
  cases r with
  | next t => exact ⟨t, rfl, Option.some.inj h⟩
  | fault _ => cases h
  | refused _ => cases h

theorem witness_StepWriters : ∃ t, step (wordAt 0x08000010 0xEB000003) = .next t ∧ pcOf t = 0x0800001C :=
  next_of_pc (by decide)
theorem witness_OtherBanksInvisible :
    let s := wordAt 0x08000000 0xE0120190
    SameView s.mode s { s with regs := s.regs.setReg (.r13 .user) 7, written := s.written.setReg (.r14 .abort) false } ∧
    ∃ t, step s = .next t ∧ pcOf t = 0x08000004 := by
  refine ⟨⟨?_, fun _ => ⟨rfl, rfl⟩, rfl, rfl, rfl⟩, next_of_pc (by decide)⟩
  intro i
  have h : ∀ i : Reg, regSlot .supervisor i ≠ .r13 .user ∧ regSlot .supervisor i ≠ .r14 .abort := by decide
  exact ⟨RegFile.getReg_setReg_ne _ (h i).1 _, RegFile.getReg_setReg_ne _ (h i).2 _⟩
theorem witness_WrittenMarksStay :
    (∃ t, step (wordAt 0x08000010 0xEB000003) = .next t ∧ pcOf t = 0x0800001C) ∧
    isWritten (.flag .user .c) (wordAt 0x08000010 0xEB000003) = true ∧ AllWritten (wordAt 0x08000010 0xEB000003) ∧
    AllWritten start ∧ ∃ t, hostAct (.protectedWrite 0x02000000 .byte 1) start = .ok t :=
  ⟨next_of_pc (by decide), by decide, by decide, rfl, ⟨_, rfl⟩⟩
theorem witness_HostWriteIsFetched : Memory.wf inRam.mem = true ∧ PlainBytes inRam.params .word (pcOf inRam) ∧
    ∃ t, hostAct (.protectedWrite (pcOf inRam) .word 0xEA000005) inRam = .ok t := by
  refine ⟨rfl, fun k hk l hl => ?_, ⟨_, rfl⟩⟩
  have hk4 : k < 4 := hk
  rcases (by omega : k = 0 ∨ k = 1 ∨ k = 2 ∨ k = 3) with rfl | rfl | rfl | rfl
  · cases resolves_only hl (m := ⟨0x03000000, .wram2, 0⟩) (by decide); exact fun h => Region.noConfusion h.1
  · cases resolves_only hl (m := ⟨0x03000001, .wram2, 1⟩) (by decide); exact fun h => Region.noConfusion h.1
  · cases resolves_only hl (m := ⟨0x03000002, .wram2, 2⟩) (by decide); exact fun h => Region.noConfusion h.1
  · cases resolves_only hl (m := ⟨0x03000003, .wram2, 3⟩) (by decide); exact fun h => Region.noConfusion h.1

-- Reset and the invariant
theorem witness_LaunchValues : launch tiny = .ok (launchState tiny) ∧ tiny.resetRegs = .unwritten ∧
    ({ tiny with resetRegs := .zero } : Launch).resetRegs = .zero := ⟨tiny_launches, rfl, rfl⟩
theorem witness_LoaderContract : tiny.bootImage.length = 16384 ∧ 1 ≤ tiny.romImage.length ∧
    tiny.romImage.length ≤ 0x02000000 ∧ launch tiny = .ok (launchState tiny) :=
  ⟨List.length_replicate, by decide, by decide, tiny_launches⟩

theorem start_inv : Inv start :=
  { romSize := by decide, memCanonical := rfl, memExists := fun _ h => absurd h (List.not_mem_nil)
    waitN := by decide, waitS := by decide, pcWritten := rfl, anomalies := fun _ h => absurd h (List.not_mem_nil) }

theorem witness_StepKeepsInv : Inv start ∧ ∃ t, step start = .next t ∧ pcOf t = 4 := ⟨start_inv, next_of_pc (by decide)⟩
theorem witness_HostActionKeepsInv : Inv start ∧ ∃ t, hostAct (.protectedWrite 0x080003FF .byte 0xFF) start = .ok t :=
  ⟨start_inv, ⟨_, rfl⟩⟩
theorem witness_ReachableInv : Reachable (launchState tiny) := .start tiny_launches

end Sys2Proof.Tests
end

section
/-! Proofs of the statements of 00_scope.md, with what `exec` answers once its condition has passed. -/
namespace Sys2Proof.Proofs
open Sys2Proof.Machine

/-- With its condition passed, an instruction that answers a next state did what its handler does. -/
theorem handled_of_exec_next {i : Instr} {c : Cond} {s t : State} (hi : i.cond = some c) (hc : CondPasses c s)
    (h : exec i s = .next t) : Handled i s t := by
  obtain ⟨d, hd, ⟨hfails, _⟩ | ⟨_, hh⟩⟩ := exec_next h
  · obtain rfl : c = d := Option.some.inj (hi.symm.trans hd)
    exact absurd (hc.symm.trans hfails) (by simp)
  · exact hh

/-- A multiply whose condition has passed ends by writing some product; MUL and MLA differ in its value only. -/
theorem exec_multiply_next {i : Instr} {c : Cond} {f : MulFields} {s t : State} (hi : i = .mul c f ∨ i = .mla c f)
    (hc : CondPasses c s) (h : exec i s = .next t) : ∃ res, t = writeProduct f res s := by
  rcases hi with rfl | rfl
  · cases handled_of_exec_next rfl hc h with
    | mul => exact ⟨_, rfl⟩
  · cases handled_of_exec_next rfl hc h with
    | mla => exact ⟨_, rfl⟩

/-- Settles O22: the state is a `writeProduct`, whatever the product, and that is where the two free values are drawn. -/
theorem drawnFlags : Obligations.DrawnFlags := by
  intro i c f s t hi hc h
  obtain ⟨res, rfl⟩ := exec_multiply_next hi hc h
  exact writeProduct_draws f res s

end Sys2Proof.Proofs
end

section
/-! What `exec` is, for every instruction: the stub for a Narrow one, and for a Wide one the condition stage around a
handler (40_dispatch.md R136-R138). -/
namespace Sys2Proof.Proofs
open Sys2Proof.Machine

/-- A handler's checked read: the fault ends the step, the value goes on (10_state.md R45). -/
def withOperand (x : Except Fault Word) (k : Word → Result) : Result :=
  match x with
  | .error e => .fault e
  | .ok v => k v

theorem withOperand_readable {i : Reg} {s : State} (h : Readable i s) (k : Word → Result) :
    withOperand (readChecked i s) k = k (readReg i s) := by
  rw [readChecked_ok h]
  rfl

theorem withOperand_unwritten {i : Reg} {s : State} (h : ¬ Readable i s) (k : Word → Result) :
    withOperand (readChecked i s) k = .fault (.unwrittenRead (.reg (regSlot s.mode i))) := by
  rw [readChecked_unwritten (by simpa using h)]
  rfl

/-- The handlers of the Wide instructions, with the stub of the classes that have none (40_dispatch.md R136). -/
inductive IsHandler : (State → Result) → Prop
  | branch (off : BitVec 24) : IsHandler fun s => .next (setPc (branchTarget off s) s)
  | link (off : BitVec 24) : IsHandler fun s => .next (setPc (branchTarget off s) (writeReg 14 (pcOf s + 4) s))
  | exchange (rm : Reg) : IsHandler fun s =>
      if rm = 15 then .next (invalidExchange s)
      else withOperand (readChecked rm s) fun v => .next (exchangeTo v s)
  | invalid : IsHandler fun s => .next (invalidExchange s)
  | mul (f : MulFields) : IsHandler fun s =>
      withOperand (readChecked f.rm s) fun a => withOperand (readChecked f.rs s) fun b =>
        .next (writeProduct f (a * b) s)
  | mla (f : MulFields) : IsHandler fun s =>
      withOperand (readChecked f.rm s) fun a => withOperand (readChecked f.rs s) fun b =>
        withOperand (readChecked f.rn s) fun d => .next (writeProduct f (a * b + d) s)
  | stub (cls : WideClass) (w : Word) : IsHandler (unimplemented (.wide cls) w)

theorem exec_bx (c : Cond) (rm : Reg) (s : State) :
    exec (.bx c rm) s = whenCondition c s (if rm = 15 then .next (invalidExchange s)
      else withOperand (readChecked rm s) fun v => .next (exchangeTo v s)) := rfl

theorem exec_mul (c : Cond) (f : MulFields) (s : State) :
    exec (.mul c f) s = whenCondition c s
      (withOperand (readChecked f.rm s) fun a => withOperand (readChecked f.rs s) fun b =>
        .next (writeProduct f (a * b) s)) := rfl

theorem exec_mla (c : Cond) (f : MulFields) (s : State) :
    exec (.mla c f) s = whenCondition c s
      (withOperand (readChecked f.rm s) fun a => withOperand (readChecked f.rs s) fun b =>
        withOperand (readChecked f.rn s) fun d => .next (writeProduct f (a * b + d) s)) := rfl

/-- Every instruction is refused at once, or is the condition stage around one of the handlers. -/
theorem exec_shape (i : Instr) :
    (∃ f w, ∀ s, exec i s = narrowUnimplemented f w s) ∨
    ∃ c h, IsHandler h ∧ ∀ s, exec i s = whenCondition c s (h s) := by
  cases i
  case b c off => exact .inr ⟨c, _, .branch off, fun _ => rfl⟩
  case bl c off => exact .inr ⟨c, _, .link off, fun _ => rfl⟩
  case bx c rm => exact .inr ⟨c, _, .exchange rm, exec_bx c rm⟩
  case bxR15 c => exact .inr ⟨c, _, .invalid, fun _ => rfl⟩
  case mul c f => exact .inr ⟨c, _, .mul f, exec_mul c f⟩
  case mla c f => exact .inr ⟨c, _, .mla f, exec_mla c f⟩
  -- the classes with no handler, Wide and Narrow
  all_goals first
    | exact .inr ⟨_, _, .stub _ _, fun _ => rfl⟩
    | exact .inl ⟨_, _, fun _ => rfl⟩

/-- Settles O24: each checked read of the handler is taken apart in its order. -/
theorem unwrittenOperandFaults : Obligations.UnwrittenOperandFaults := by
  refine ⟨fun c rm s hc h15 hm => ?_, fun i c f s hi hc => ⟨fun hm => ?_, fun hm hs => ?_, ?_⟩⟩
  · rw [exec_bx, whenCondition_passes hc, if_neg h15, withOperand_unwritten hm]
  · rcases hi with rfl | rfl
    · rw [exec_mul, whenCondition_passes hc, withOperand_unwritten hm]
    · rw [exec_mla, whenCondition_passes hc, withOperand_unwritten hm]
  · rcases hi with rfl | rfl
    · rw [exec_mul, whenCondition_passes hc, withOperand_readable hm, withOperand_unwritten hs]
    · rw [exec_mla, whenCondition_passes hc, withOperand_readable hm, withOperand_unwritten hs]
  · rintro rfl hm hs hn
    rw [exec_mla, whenCondition_passes hc, withOperand_readable hm, withOperand_readable hs, withOperand_unwritten hn]

end Sys2Proof.Proofs
end

section
/-! Bank isolation (10_state.md R21, R32; 60_exceptions.md R191): every operation takes two states that agree
in what mode `m` can see to two that agree so. -/
namespace Sys2Proof.Proofs
open Sys2Proof.Machine

/-- Two states that differ only in what mode `m` cannot see. -/
structure Alike (m : Mode) (s u : State) : Prop where
  view : SameView m s u
  side : SameMemorySide s u

theorem sameMemorySide_symm {s u : State} (h : SameMemorySide s u) : SameMemorySide u s :=
  .of_fields h.mem.symm h.ds.symm h.vblank.symm h.hblank.symm h.scanline.symm h.anomalies.symm h.params.symm

/-- Updates that leave the memory side keep two memory sides the same. -/
theorem sameMemorySide_both {s u s' u' : State} (h : SameMemorySide s u) (hs : SameMemorySide s s')
    (hu : SameMemorySide u u') : SameMemorySide s' u' :=
  (sameMemorySide_symm hs).trans (h.trans hu)

section
variable {m : Mode} {s u : State} (h : Alike m s u)
include h

/-! ### What the two states read the same -/

theorem alike_pcOf : pcOf u = pcOf s := (h.view.regs 15).1

theorem alike_fetch : fetch u = fetch s := by
  have read : ∀ a w, memRead a w u = memRead a w s := fun a w => by
    simp only [memRead, h.side.params, loadByte_congr h.side.mem h.side.vblank h.side.hblank h.side.scanline]
  simp only [fetch, alike_pcOf h, h.view.isa, read]

theorem alike_readChecked (hm : s.mode = m) (i : Reg) : readChecked i u = readChecked i s := by
  obtain ⟨hv, hw⟩ := h.view.regs i
  rw [← hm] at hv hw
  simp only [readChecked, readReg, h.view.mode, hv, hw]

theorem alike_activeFlags (hm : s.mode = m) : activeFlags u = activeFlags s := by
  have get : ∀ f, (activeFlags u).get f = (activeFlags s).get f := fun f => by
    have hv := (h.view.flags f).1
    rw [← hm] at hv
    simp only [activeFlags, h.view.mode]
    exact hv
  have hn := get .n
  have hz := get .z
  have hc := get .c
  have hv := get .v
  generalize activeFlags u = x at *
  generalize activeFlags s = y at *
  cases x
  cases y
  simp_all [FlagSet.get]

theorem alike_firstUnwritten (hm : s.mode = m) (fs : List Flag) : firstUnwritten fs u = firstUnwritten fs s := by
  induction fs with
  | nil => rfl
  | cons f rest ih =>
    have hw := (h.view.flags f).2
    rw [← hm] at hw
    simp only [firstUnwritten, h.view.mode, hw, ih]

theorem alike_evalCond (hm : s.mode = m) (c : Cond) : evalCond c u = evalCond c s := by
  simp only [evalCond, alike_firstUnwritten h hm, alike_activeFlags h hm, h.view.mode]

/-! ### The updates -/

theorem alike_writeReg (i : Reg) (v : Word) : Alike m (writeReg i v s) (writeReg i v u) where
  view :=
    { regs := fun j => by
        obtain ⟨hv, hw⟩ := h.view.regs j
        constructor <;> simp only [writeReg_regs, writeReg_written, RegFile.getReg_setReg, h.view.mode, hv, hw]
      flags := fun f => by
        obtain ⟨hv, hw⟩ := h.view.flags f
        constructor <;> simp only [writeReg_regs, writeReg_written, RegFile.getFlag_setReg, hv, hw]
      mode := h.view.mode, isa := h.view.isa, draws := h.view.draws }
  side := sameMemorySide_both h.side (writeReg_only i v s).side (writeReg_only i v u).side

theorem alike_setPc (v : Word) : Alike m (setPc v s) (setPc v u) := alike_writeReg h 15 v

theorem alike_setFlag (f : Flag) (b : Bool) : Alike m (setFlag f b s) (setFlag f b u) where
  view :=
    { regs := fun j => by
        obtain ⟨hv, hw⟩ := h.view.regs j
        constructor <;> simp only [setFlag_regs, setFlag_written, RegFile.getReg_setFlag, hv, hw]
      flags := fun g => by
        obtain ⟨hv, hw⟩ := h.view.flags g
        constructor <;> simp only [setFlag_regs, setFlag_written, RegFile.getFlag_setFlag, h.view.mode, hv, hw]
      mode := h.view.mode, isa := h.view.isa, draws := h.view.draws }
  side := sameMemorySide_both h.side (setFlag_side f b s) (setFlag_side f b u)

theorem alike_setDraws (n : Nat) : Alike m { s with draws := n } { u with draws := n } where
  view := { regs := h.view.regs, flags := h.view.flags, mode := h.view.mode, isa := h.view.isa, draws := rfl }
  side := sameMemorySide_both h.side (setDraws_flagsOnly n s).side (setDraws_flagsOnly n u).side

theorem alike_switchInstrSet (i : InstrSet) : Alike m (switchInstrSet i s) (switchInstrSet i u) where
  view := { regs := h.view.regs, flags := h.view.flags, mode := h.view.mode, isa := rfl, draws := h.view.draws }
  side := sameMemorySide_both h.side (.of_fields rfl rfl rfl rfl rfl rfl rfl) (.of_fields rfl rfl rfl rfl rfl rfl rfl)

theorem alike_invalidExchange : Alike m (invalidExchange s) (invalidExchange u) where
  view := { regs := h.view.regs, flags := h.view.flags, mode := rfl, isa := h.view.isa, draws := h.view.draws }
  side := sameMemorySide_both h.side (Handled.bxR15 .al s).side (Handled.bxR15 .al u).side

theorem alike_multiplyCV : Alike m (multiplyCV s) (multiplyCV u) := by
  unfold multiplyCV
  rw [h.side.params, h.view.draws]
  split
  · exact alike_setDraws (alike_setFlag (alike_setFlag h _ _) _ _) _
  · exact h

theorem alike_multiplyFlags (res : Word) : Alike m (multiplyFlags res s) (multiplyFlags res u) :=
  alike_multiplyCV (alike_setFlag (alike_setFlag h _ _) _ _)

theorem alike_advance : Alike m (advance (pcOf s) s) (advance (pcOf u) u) := by
  rw [alike_pcOf h]
  exact alike_setPc h _

theorem alike_branchTarget (off : BitVec 24) : branchTarget off u = branchTarget off s := by
  simp only [branchTarget, alike_pcOf h]

theorem alike_writeProduct (f : MulFields) (res : Word) : Alike m (writeProduct f res s) (writeProduct f res u) := by
  have hw := alike_writeReg h f.rd res
  have hf : Alike m (if f.s then multiplyFlags res (writeReg f.rd res s) else writeReg f.rd res s)
      (if f.s then multiplyFlags res (writeReg f.rd res u) else writeReg f.rd res u) := by
    split
    · exact alike_multiplyFlags hw res
    · exact hw
  rw [writeProduct_eq, writeProduct_eq, alike_pcOf h]
  split
  · exact hf
  · exact alike_setPc hf _

end

/-! ### Outcomes -/

/-- The same outcome: the same fault or refusal, or next states that mode `m` sees alike. -/
inductive SameOutcome (m : Mode) : Result → Result → Prop
  | next {t v : State} (h : Alike m t v) : SameOutcome m (.next t) (.next v)
  | fault (e : Fault) : SameOutcome m (.fault e) (.fault e)
  | refused (r : Refusal) : SameOutcome m (.refused r) (.refused r)

section
variable {m : Mode} {s u : State} (h : Alike m s u)
include h

theorem sameOutcome_unimplemented (cls : FormatClass) (w : Word) :
    SameOutcome m (unimplemented cls w s) (unimplemented cls w u) := by
  unfold unimplemented
  rw [alike_pcOf h]
  exact .refused _

theorem sameOutcome_whenCondition (hm : s.mode = m) (c : Cond) {r q : Result} (hrq : SameOutcome m r q) :
    SameOutcome m (whenCondition c s r) (whenCondition c u q) := by
  have he := alike_evalCond h hm c
  cases hc : evalCond c s with
  | error e =>
    rw [whenCondition_unwritten hc, whenCondition_unwritten (he.trans hc)]
    exact .fault e
  | ok b =>
    cases b with
    | false =>
      rw [whenCondition_fails hc, whenCondition_fails (he.trans hc)]
      exact .next (alike_advance h)
    | true =>
      rw [whenCondition_passes hc, whenCondition_passes (he.trans hc)]
      exact hrq

theorem sameOutcome_withOperand (hm : s.mode = m) (i : Reg) {k j : Word → Result}
    (hkj : ∀ v, SameOutcome m (k v) (j v)) :
    SameOutcome m (withOperand (readChecked i s) k) (withOperand (readChecked i u) j) := by
  rw [alike_readChecked h hm]
  cases readChecked i s with
  | error e => exact .fault e
  | ok v => exact hkj v

theorem sameOutcome_handler (hm : s.mode = m) {k : State → Result} (hk : IsHandler k) :
    SameOutcome m (k s) (k u) := by
  cases hk with
  | branch off =>
    simp only [alike_branchTarget h]
    exact .next (alike_setPc h _)
  | link off =>
    simp only [alike_branchTarget h, alike_pcOf h]
    exact .next (alike_setPc (alike_writeReg h _ _) _)
  | exchange rm =>
    split
    · exact .next (alike_invalidExchange h)
    · exact sameOutcome_withOperand h hm rm fun v => .next (alike_switchInstrSet (alike_setPc h v) _)
  | invalid => exact .next (alike_invalidExchange h)
  | mul f =>
    exact sameOutcome_withOperand h hm _ fun _ => sameOutcome_withOperand h hm _ fun _ =>
      .next (alike_writeProduct h f _)
  | mla f =>
    exact sameOutcome_withOperand h hm _ fun _ => sameOutcome_withOperand h hm _ fun _ =>
      sameOutcome_withOperand h hm _ fun _ => .next (alike_writeProduct h f _)
  | stub cls w => exact sameOutcome_unimplemented h _ w

theorem sameOutcome_exec (hm : s.mode = m) (i : Instr) : SameOutcome m (exec i s) (exec i u) := by
  rcases exec_shape i with ⟨f, w, he⟩ | ⟨c, k, hk, he⟩ <;> rw [he, he]
  · exact sameOutcome_unimplemented h _ w
  · exact sameOutcome_whenCondition h hm c (sameOutcome_handler h hm hk)

theorem sameOutcome_step (hm : s.mode = m) : SameOutcome m (step s) (step u) := by
  have hf := alike_fetch h
  cases hs : fetch s with
  | error e =>
    rw [step_of_fetch_error hs, step_of_fetch_error (hf.trans hs)]
    exact .fault e
  | ok i =>
    rw [step_of_fetch hs, step_of_fetch (hf.trans hs)]
    exact sameOutcome_exec h hm i

end

theorem sameOutcome_of_next {m : Mode} {t : State} {q : Result} (h : SameOutcome m (.next t) q) :
    ∃ v, q = .next v ∧ Alike m t v := by
  cases h with
  | next hv => exact ⟨_, rfl, hv⟩

theorem sameOutcome_of_fault {m : Mode} {e : Fault} {q : Result} (h : SameOutcome m (.fault e) q) : q = .fault e := by
  cases h
  rfl

theorem sameOutcome_of_refused {m : Mode} {r : Refusal} {q : Result} (h : SameOutcome m (.refused r) q) :
    q = .refused r := by
  cases h
  rfl

/-- Settles O51: the two states are alike in the active mode's view, and alike states step to the same outcome. -/
theorem otherBanksInvisible : Obligations.OtherBanksInvisible := by
  intro s regs written hview
  have h := sameOutcome_step (m := s.mode) ⟨hview, .of_fields rfl rfl rfl rfl rfl rfl rfl⟩ rfl
  refine ⟨fun t ht => ?_, fun e he => ?_, fun r hr => ?_⟩
  · obtain ⟨u, hu, halike⟩ := sameOutcome_of_next (ht ▸ h)
    exact ⟨u, hu, halike.view, halike.side⟩
  · exact sameOutcome_of_fault (he ▸ h)
  · exact sameOutcome_of_refused (hr ▸ h)

end Sys2Proof.Proofs
end

section
/-! What the decoder gives each instruction set: a Narrow instruction has no condition, and a Wide one is of its word's
class, so that register 15 never stands in a decoded BX (30_encoding.md R104, R113, R153). -/
namespace Sys2Proof.Proofs
open Sys2Proof.Machine

theorem decodeAlu_cond (h : Half) : (decodeAlu h).cond = none := by
  unfold decodeAlu
  split <;> rfl

theorem decodeAddSub_cond (h : Half) : (decodeAddSub h).cond = none := by
  unfold decodeAddSub
  split <;> rfl

theorem decodeHiReg_cond (h : Half) : (decodeHiReg h).cond = none := by
  unfold decodeHiReg
  split <;> rfl

theorem decodeRegOffset_cond (h : Half) : (decodeRegOffset h).cond = none := by
  unfold decodeRegOffset
  split <;> rfl

theorem decodeB0_cond (h : Half) : (decodeB0 h).cond = none := by
  unfold decodeB0
  split <;> rfl

theorem decodeB8_cond (h : Half) : (decodeB8 h).cond = none := by
  unfold decodeB8
  split <;> rfl

theorem decodeD0_cond (h : Half) : (decodeD0 h).cond = none := by
  unfold decodeD0
  split <;> rfl

theorem decodeD8_cond (h : Half) : (decodeD8 h).cond = none := by
  unfold decodeD8
  split <;> rfl

/-- No Narrow instruction has a condition stage (40_dispatch.md R137). -/
theorem decodeNarrow_cond (h : Half) : (decodeNarrow h).cond = none := by
  unfold decodeNarrow
  split
  case h_4 => exact decodeAddSub_cond h
  case h_9 =>
    split
    · exact decodeHiReg_cond h
    · exact decodeAlu_cond h
  case h_11 | h_12 => exact decodeRegOffset_cond h
  case h_23 => exact decodeB0_cond h
  case h_24 => exact decodeB8_cond h
  case h_27 => exact decodeD0_cond h
  case h_28 => exact decodeD8_cond h
  all_goals rfl

theorem decodeDataProcessing_cls (w : Word) : (decodeDataProcessing w).cls = .wide .dataProcessing := by
  unfold decodeDataProcessing
  split <;> rfl

theorem decodeMultiply_cls (w : Word) : (decodeMultiply w).cls = .wide .multiply := by
  unfold decodeMultiply
  split <;> rfl

theorem decodeMultiplyLong_cls (w : Word) : (decodeMultiplyLong w).cls = .wide .multiplyLong := by
  unfold decodeMultiplyLong
  split <;> rfl

theorem decodeSwap_cls (w : Word) : (decodeSwap w).cls = .wide .singleDataSwap := by
  unfold decodeSwap
  split <;> rfl

theorem decodeBranchExchange_cls (w : Word) : (decodeBranchExchange w).cls = .wide .branchExchange := by
  unfold decodeBranchExchange
  split <;> rfl

theorem decodeHalfReg_cls (w : Word) : (decodeHalfReg w).cls = .wide .halfwordRegOffset := by
  unfold decodeHalfReg
  split <;> rfl

theorem decodeHalfImm_cls (w : Word) : (decodeHalfImm w).cls = .wide .halfwordImmOffset := by
  unfold decodeHalfImm
  split <;> rfl

theorem decodeTransfer_cls (w : Word) : (decodeTransfer w).cls = .wide .singleDataTransfer := by
  unfold decodeTransfer
  split <;> rfl

theorem decodeUndefined_cls (w : Word) : (decodeUndefined w).cls = .wide .undefined := by
  unfold decodeUndefined
  split <;> rfl

theorem decodeBlock_cls (w : Word) : (decodeBlock w).cls = .wide .blockDataTransfer := by
  unfold decodeBlock
  split <;> rfl

theorem decodeBranch_cls (w : Word) : (decodeBranch w).cls = .wide .branch := by
  unfold decodeBranch
  split <;> rfl

theorem decodeCoprocTransfer_cls (w : Word) : (decodeCoprocTransfer w).cls = .wide .coprocDataTransfer := by
  unfold decodeCoprocTransfer
  split <;> rfl

theorem decodeCoprocReg_cls (w : Word) : (decodeCoprocReg w).cls = .wide .coprocRegisterTransfer := by
  unfold decodeCoprocReg
  split <;> rfl

/-- A Wide word decodes to an instruction of its class. -/
theorem decodeWide_cls (w : Word) : (decodeWide w).cls = .wide (classifyWide w) := by
  unfold decodeWide
  cases classifyWide w with
  | dataProcessing => exact decodeDataProcessing_cls w
  | multiply => exact decodeMultiply_cls w
  | multiplyLong => exact decodeMultiplyLong_cls w
  | singleDataSwap => exact decodeSwap_cls w
  | branchExchange => exact decodeBranchExchange_cls w
  | halfwordRegOffset => exact decodeHalfReg_cls w
  | halfwordImmOffset => exact decodeHalfImm_cls w
  | singleDataTransfer => exact decodeTransfer_cls w
  | undefined => exact decodeUndefined_cls w
  | blockDataTransfer => exact decodeBlock_cls w
  | branch => exact decodeBranch_cls w
  | coprocDataTransfer => exact decodeCoprocTransfer_cls w
  | coprocDataOperation => rfl
  | coprocRegisterTransfer => exact decodeCoprocReg_cls w
  | softwareInterrupt => rfl

/-- BX naming register 15 decodes to BX_R15, never to BX (41_branch.md R153). -/
theorem decodeWide_ne_bx15 (w : Word) (c : Cond) : decodeWide w ≠ .bx c 15 := by
  intro h
  have hcls : FormatClass.wide .branchExchange = .wide (classifyWide w) := by
    rw [← decodeWide_cls, h]
    rfl
  have hdec : decodeBranchExchange w = .bx c 15 := by
    rw [← h, decodeWide, ← FormatClass.wide.inj hcls]
  unfold decodeBranchExchange at hdec
  split at hdec
  · cases hdec
  · rename_i hne
    injection hdec with _ hrm
    simp [hrm] at hne

/-- A fetched instruction is the decoding of some word in the state's instruction set. -/
theorem fetch_ok {s : State} {i : Instr} (h : fetch s = .ok i) : ∃ w, i = decodeFetched s.isa w := by
  unfold fetch at h
  split at h <;> cases h
  exact ⟨_, rfl⟩

theorem fetch_ne_bx15 (s : State) (c : Cond) : ¬ Fetches s (.bx c 15) := by
  intro h
  obtain ⟨w, hw⟩ := fetch_ok h
  cases hi : s.isa with
  | wide => rw [hi] at hw; exact decodeWide_ne_bx15 w c hw.symm
  | narrow =>
    rw [hi] at hw
    have := decodeNarrow_cond (w.setWidth 16)
    rw [show decodeNarrow (w.setWidth 16) = .bx c 15 from hw.symm] at this
    cases this

/-- An instruction with a condition was fetched as a Wide one. -/
theorem isa_of_fetch {s : State} {i : Instr} {c : Cond} (h : fetch s = .ok i) (hc : i.cond = some c) :
    s.isa = .wide := by
  obtain ⟨w, rfl⟩ := fetch_ok h
  cases hi : s.isa with
  | wide => rfl
  | narrow =>
    rw [hi] at hc
    exact absurd ((decodeNarrow_cond _).symm.trans hc) (by simp)

end Sys2Proof.Proofs
end

section
/-! Who writes what (10_state.md R30-R32, R36, R45): registers, flags, modes and written marks, handler by handler. -/
namespace Sys2Proof.Proofs
open Sys2Proof.Machine

/-- A step that continues ran a Wide instruction: the condition failed and the counter advanced, or a handler acted. -/
theorem step_next_cases {s t : State} (h : step s = .next t) :
    s.isa = .wide ∧ ∃ i, Fetches s i ∧ (t = advance (pcOf s) s ∨ Handled i s t) := by
  obtain ⟨i, hi, he⟩ := step_next h
  obtain ⟨c, hc, ⟨_, ht⟩ | ⟨_, hh⟩⟩ := exec_next he
  · exact ⟨isa_of_fetch hi hc, i, hi, .inl ht⟩
  · exact ⟨isa_of_fetch hi hc, i, hi, .inr hh⟩

/-! ### Registers, flags and modes -/

theorem setPc_sameReg {r : RegSlot} (hr : r ≠ .gpr15) (v : Word) (s : State) : SameReg s (setPc v s) r :=
  (setPc_only v s).regs r (by simpa using hr)

/-- Besides the counter, BL writes the active r14 and a multiply its destination. -/
theorem handled_reg {i : Instr} {s t : State} (h : Handled i s t) {r : RegSlot} (hr : r ≠ .gpr15)
    (hn : ¬ SameReg s t r) :
    (r = .r14 s.mode ∧ ∃ c off, i = .bl c off) ∨
      ∃ c f, (i = .mul c f ∨ i = .mla c f) ∧ r = regSlot s.mode f.rd := by
  cases h with
  | b => exact absurd (setPc_sameReg hr _ s) hn
  | bl c off =>
    refine .inl ⟨by_contra fun h14 => hn ?_, c, off, rfl⟩
    have hw : SameReg s (writeReg 14 (pcOf s + 4) s) r :=
      (writeReg_only 14 _ s).regs r fun hm => h14 (List.mem_singleton.mp hm)
    exact hw.trans (setPc_sameReg hr _ _)
  | bx => exact absurd (setPc_sameReg hr _ s) hn
  | bx15 | bxR15 => exact absurd (.refl s r) hn
  | mul c f =>
    exact .inr ⟨c, f, .inl rfl, by_contra fun hd => hn ((writeProduct_effect f _ s).regs r hd hr)⟩
  | mla c f =>
    exact .inr ⟨c, f, .inr rfl, by_contra fun hd => hn ((writeProduct_effect f _ s).regs r hd hr)⟩

/-- A multiply changes a flag only where `S = 1`, and only in the active bank. -/
theorem writeProduct_flag {f : MulFields} {res : Word} {s : State} {m : Mode} {g : Flag}
    (hn : ¬ SameFlag s (writeProduct f res s) m g) : m = s.mode ∧ f.s = true := by
  have hf := (writeProduct_effect f res s).flags
  exact ⟨by_contra fun hm => hn (hf.others m g hm), by_contra fun hs => hn (hf.unset (by simpa using hs) m g)⟩

/-- Only a flag-setting multiply changes a flag. -/
theorem handled_flag {i : Instr} {s t : State} (h : Handled i s t) {m : Mode} {f : Flag} (hn : ¬ SameFlag s t m f) :
    m = s.mode ∧ ∃ c g, (i = .mul c g ∨ i = .mla c g) ∧ g.s = true := by
  cases h with
  | b => exact absurd ((setPc_only _ s).flags m f) hn
  | bl =>
    have hw := (writeReg_only 14 (pcOf s + 4) s).flags m f
    exact absurd (hw.trans ((setPc_only _ _).flags m f)) hn
  | bx => exact absurd ((exchangeTo_only _ s).flags m f) hn
  | bx15 | bxR15 => exact absurd (.refl s m f) hn
  | mul c g => exact ⟨(writeProduct_flag hn).1, c, g, .inl rfl, (writeProduct_flag hn).2⟩
  | mla c g => exact ⟨(writeProduct_flag hn).1, c, g, .inr rfl, (writeProduct_flag hn).2⟩

/-- Only a BX that names register 15 changes the operating mode. -/
theorem handled_mode {i : Instr} {s t : State} (h : Handled i s t) (hn : t.mode ≠ s.mode) :
    t.mode = .undefined ∧ ∃ c, i = .bxR15 c ∨ i = .bx c 15 := by
  cases h with
  | b | bl | bx => exact absurd rfl hn
  | bx15 c => exact ⟨rfl, c, .inr rfl⟩
  | bxR15 c => exact ⟨rfl, c, .inl rfl⟩
  | mul | mla => exact absurd (writeProduct_effect _ _ s).mode hn

/-- Only BX changes the instruction set. -/
theorem handled_isa {i : Instr} {s t : State} (h : Handled i s t) (hn : t.isa ≠ s.isa) : ∃ c rm, i = .bx c rm := by
  cases h with
  | bx c rm => exact ⟨c, rm, rfl⟩
  | b | bl | bx15 | bxR15 => exact absurd rfl hn
  | mul | mla => exact absurd (writeProduct_effect _ _ s).isa hn

/-- A step writes nothing outside the register file and the processor state. -/
theorem step_side {s t : State} (h : step s = .next t) : SameMemorySide s t := by
  obtain ⟨_, _, he⟩ := step_next h
  exact exec_side he

/-- Settles O50: the counter's advance writes x[15] alone, and each handler what the lemmas above say. -/
theorem stepWriters : Obligations.StepWriters := by
  intro s t h
  obtain ⟨hisa, i, hi, rfl | hh⟩ := step_next_cases h
  · refine ⟨step_side h, fun r hn => .inl (by_contra fun hr => hn (setPc_sameReg hr _ s)),
      fun m f hn => absurd ((setPc_only _ s).flags m f) hn, fun hn => absurd rfl hn, fun hn => absurd rfl hn⟩
  · refine ⟨step_side h, fun r hn => ?_, fun m f hn => ?_, fun hn => ?_, fun hn => ?_⟩
    · by_cases hr : r = .gpr15
      · exact .inl hr
      · obtain ⟨h14, c, off, rfl⟩ | ⟨c, f, rfl | rfl, hd⟩ := handled_reg hh hr hn
        · exact .inr (.inl ⟨h14, c, off, hi⟩)
        · exact .inr (.inr ⟨c, f, .inl hi, hd⟩)
        · exact .inr (.inr ⟨c, f, .inr hi, hd⟩)
    · obtain ⟨hm, c, g, rfl | rfl, hs⟩ := handled_flag hh hn
      · exact ⟨hm, c, g, .inl hi, hs⟩
      · exact ⟨hm, c, g, .inr hi, hs⟩
    · obtain ⟨hu, c, rfl | rfl⟩ := handled_mode hh hn
      · exact ⟨hu, c, hi⟩
      · exact absurd hi (fetch_ne_bx15 s c)
    · obtain ⟨c, rm, rfl⟩ := handled_isa hh hn
      refine ⟨hisa, ?_, c, rm, hi⟩
      cases ht : t.isa with
      | wide => exact absurd (ht.trans hisa.symm) hn
      | narrow => rfl

/-! ### Written marks -/

/-- No written mark is cleared between two states (10_state.md R45). -/
def MarksKept (s t : State) : Prop := ∀ slot, isWritten slot s = true → isWritten slot t = true

theorem marksKept_trans {s t u : State} (h : MarksKept s t) (k : MarksKept t u) : MarksKept s u :=
  fun slot hs => k slot (h slot hs)

theorem marksKept_of_written_eq {s t : State} (h : t.written = s.written) : MarksKept s t := by
  intro slot hs
  cases slot <;> simpa only [isWritten, h] using hs

theorem marksKept_writeReg (i : Reg) (v : Word) (s : State) : MarksKept s (writeReg i v s) := by
  intro slot hs
  cases slot with
  | reg r =>
    change (s.written.setReg _ true).getReg r = true
    rw [RegFile.getReg_setReg]
    split
    · rfl
    · exact hs
  | flag m f => exact (RegFile.getFlag_setReg _ _ _ _ _).trans hs

theorem marksKept_setPc (v : Word) (s : State) : MarksKept s (setPc v s) := marksKept_writeReg 15 v s

theorem marksKept_setFlag (f : Flag) (b : Bool) (s : State) : MarksKept s (setFlag f b s) := by
  intro slot hs
  cases slot with
  | reg r => exact (RegFile.getReg_setFlag _ _ _ _ _).trans hs
  | flag m g =>
    change (s.written.setFlag _ f true).getFlag m g = true
    rw [RegFile.getFlag_setFlag]
    split
    · rfl
    · exact hs

theorem marksKept_multiplyCV (s : State) : MarksKept s (multiplyCV s) := by
  unfold multiplyCV
  split
  · exact marksKept_trans (marksKept_setFlag .c _ s) (marksKept_setFlag .v (Config.freeFlag (s.draws + 1)) _)
  · exact fun _ hs => hs

theorem marksKept_multiplyFlags (res : Word) (s : State) : MarksKept s (multiplyFlags res s) :=
  marksKept_trans (marksKept_trans (marksKept_setFlag .n _ s) (marksKept_setFlag .z _ _)) (marksKept_multiplyCV _)

theorem marksKept_writeProduct (f : MulFields) (res : Word) (s : State) : MarksKept s (writeProduct f res s) := by
  have hf : MarksKept s (if f.s then multiplyFlags res (writeReg f.rd res s) else writeReg f.rd res s) := by
    split
    · exact marksKept_trans (marksKept_writeReg _ _ s) (marksKept_multiplyFlags _ _)
    · exact marksKept_writeReg _ _ s
  rw [writeProduct_eq]
  split
  · exact hf
  · exact marksKept_trans hf (marksKept_setPc _ _)

theorem marksKept_handled {i : Instr} {s t : State} (h : Handled i s t) : MarksKept s t := by
  cases h with
  | b => exact marksKept_setPc _ s
  | bl => exact marksKept_trans (marksKept_writeReg 14 _ s) (marksKept_setPc _ _)
  | bx c rm => exact marksKept_setPc (readReg rm s) s
  | bx15 | bxR15 => exact marksKept_of_written_eq rfl
  | mul | mla => exact marksKept_writeProduct _ _ s

theorem marksKept_step {s t : State} (h : step s = .next t) : MarksKept s t := by
  obtain ⟨_, i, _, rfl | hh⟩ := step_next_cases h
  · exact marksKept_setPc _ s
  · exact marksKept_handled hh

/-- A protected write leaves the register file, the marks and the processor state (20_memory.md R77). -/
theorem memWrite_frame {a : Word} {w : Width} {v : Word} {s t : State} (h : memWrite a w v s = .ok t) :
    SameProcessor s t := by
  rcases memWrite_cases a w v s with ⟨e, _, he⟩ | ⟨ls, _, he⟩ <;> rw [he] at h <;> cases h
  exact storeAll_induct (P := SameProcessor s) (fun l _ b u hu => hu.trans (storeByte_frame l b u)) v s (.refl s)

/-- An unprotected write leaves the same (20_memory.md R84). -/
theorem rawWrite_frame {a : Word} {w : Width} {v : Word} {s t : State} (h : rawWrite a w v s = .ok t) :
    SameProcessor s t := by
  rcases rawWrite_cases a w v s with ⟨e, _, he⟩ | ⟨ls, _, he⟩ <;> rw [he] at h <;> cases h
  exact storeAll_induct (P := SameProcessor s) (fun l _ b u hu => hu.trans (storeByteRaw_frame l b u)) v s (.refl s)

theorem marksKept_setFlagWord (w : Word) (s : State) : MarksKept s (setFlagWord w s) :=
  marksKept_trans (marksKept_trans (marksKept_trans (marksKept_setFlag .n _ s) (marksKept_setFlag .z _ _))
    (marksKept_setFlag .c _ _)) (marksKept_setFlag .v _ _)

theorem marksKept_hostAct {a : HostAction} {s t : State} (h : hostAct a s = .ok t) : MarksKept s t := by
  cases a with
  | writeReg i v => cases h; exact marksKept_writeReg i v s
  | setFlag f b => cases h; exact marksKept_setFlag f b s
  | setFlagWord w => cases h; exact marksKept_setFlagWord w s
  | switchMode | switchModeBits | switchInstrSet | driveDisplay => cases h; exact marksKept_of_written_eq rfl
  | protectedWrite => exact marksKept_of_written_eq (memWrite_frame h).written
  | rawWrite => exact marksKept_of_written_eq (rawWrite_frame h).written

/-! ### Where every mark is set -/

theorem allWritten_iff (s : State) : AllWritten s ↔ ∀ slot, isWritten slot s = true := by
  constructor
  · intro h slot
    cases slot <;> simp [isWritten, h]
  · intro h
    refine RegFile.ext_reads (fun k => ?_) fun m f => ?_
    · rw [RegFile.getReg_fill]; exact h (.reg k)
    · rw [RegFile.getFlag_fill]; exact h (.flag m f)

theorem allWritten_of_marksKept {s t : State} (h : AllWritten s) (k : MarksKept s t) : AllWritten t :=
  (allWritten_iff t).mpr fun slot => k slot ((allWritten_iff s).mp h slot)

theorem fetch_ne_unwrittenRead (s : State) (slot : Slot) : fetch s ≠ .error (.unwrittenRead slot) := by
  intro h
  unfold fetch at h
  split at h <;> cases h

section
variable {s : State} (h : AllWritten s)
include h

theorem whenCondition_ne_unwrittenRead (c : Cond) {r : Result} {slot : Slot} (hr : r ≠ .fault (.unwrittenRead slot)) :
    whenCondition c s r ≠ .fault (.unwrittenRead slot) := by
  rcases evalCond_cases c s with ⟨_, he⟩ | ⟨f, _, hf, _⟩
  · cases hb : conditionMet c (activeFlags s) with
    | false => rw [whenCondition_fails (he.trans (by rw [hb]))]; exact nofun
    | true => rwa [whenCondition_passes (he.trans (by rw [hb]))]
  · exact absurd ((allWritten_iff s).mp h (.flag s.mode f)) (by simp [isWritten, hf])

theorem handler_ne_unwrittenRead {k : State → Result} (hk : IsHandler k) (slot : Slot) :
    k s ≠ .fault (.unwrittenRead slot) := by
  have read : ∀ i k, withOperand (readChecked i s) k = k (readReg i s) := fun i =>
    withOperand_readable ((allWritten_iff s).mp h _)
  cases hk with
  | branch | link | invalid => exact nofun
  | exchange rm => dsimp only; split <;> simp [read]
  | mul f | mla f => simp [read]
  | stub => exact nofun

theorem step_ne_unwrittenRead (slot : Slot) : step s ≠ .fault (.unwrittenRead slot) := by
  cases hf : fetch s with
  | error e =>
    rw [step_of_fetch_error hf]
    rintro ⟨rfl⟩
    exact fetch_ne_unwrittenRead s slot hf
  | ok i =>
    rw [step_of_fetch hf]
    rcases exec_shape i with ⟨f, w, he⟩ | ⟨c, k, hk, he⟩ <;> rw [he]
    · exact nofun
    · exact whenCondition_ne_unwrittenRead h c (handler_ne_unwrittenRead h hk slot)

end

/-- Settles O52: no operation clears a mark, and with every mark set each checked read answers a value. -/
theorem writtenMarksStay : Obligations.WrittenMarksStay :=
  ⟨fun _ _ slot h => marksKept_step h slot, fun _ _ _ slot h => marksKept_hostAct h slot,
    fun _ slot h => step_ne_unwrittenRead h slot, fun _ _ hs h => allWritten_of_marksKept hs (marksKept_step h),
    fun _ _ _ hs h => allWritten_of_marksKept hs (marksKept_hostAct h), rfl⟩

end Sys2Proof.Proofs
end

section
/-! The invariant at reset and over a step. -/
namespace Sys2Proof.Proofs
open Sys2Proof.Machine

/-- Settles O57: memory and the anomaly log are empty, the rest is the reset value. -/
theorem resetInv : Obligations.ResetInv where
  romSize := by decide
  memCanonical := reset_mem_wf
  memExists := fun _ h => absurd h List.not_mem_nil
  waitN := by decide
  waitS := by decide
  pcWritten := rfl
  anomalies := fun _ h => absurd h List.not_mem_nil

/-- The invariant speaks of the memory side and of the counter's mark alone. -/
theorem inv_of_sameMemorySide {s t : State} (h : Inv s) (hs : SameMemorySide s t) (hpc : t.written.gpr15 = true) :
    Inv t where
  romSize := by rw [hs.params]; exact h.romSize
  memCanonical := by rw [hs.mem]; exact h.memCanonical
  memExists := by rw [hs.mem, hs.params]; exact h.memExists
  waitN := by rw [hs.ds]; exact h.waitN
  waitS := by rw [hs.ds]; exact h.waitS
  pcWritten := hpc
  anomalies := by rw [hs.anomalies, hs.params]; exact h.anomalies

/-- Settles O58: a step leaves the memory side as it was and clears no mark. -/
theorem stepKeepsInv : Obligations.StepKeepsInv := fun _ _ hi h =>
  inv_of_sameMemorySide hi (step_side h) (marksKept_step h (.reg .gpr15) hi.pcWritten)

end Sys2Proof.Proofs
end

section
/-! The condition evaluator's reads of the flags (10_state.md R45; 40_dispatch.md R130). -/
namespace Sys2Proof.Proofs
open Sys2Proof.Machine

/-- A search over flag sets is a search over their four flags. -/
theorem exists_flagSet {P : FlagSet Bool → Prop} : (∃ fs, P fs) ↔ ∃ n z c v, P ⟨n, z, c, v⟩ :=
  ⟨fun ⟨⟨n, z, c, v⟩, h⟩ => ⟨n, z, c, v, h⟩, fun ⟨n, z, c, v, h⟩ => ⟨⟨n, z, c, v⟩, h⟩⟩

/-- The listed flags are those on which the predicate depends: 16 codes, 4 flags, 32 changes of one flag each. -/
theorem mem_flagsRead_iff (c : Cond) (f : Flag) :
    f ∈ flagsRead c ↔ ∃ (fs : FlagSet Bool) (b : Bool), conditionMet c (fs.set f b) ≠ conditionMet c fs := by
  rw [exists_flagSet]
  cases c <;> cases f <;> decide

/-- The list names its flags in the order N, Z, C, V (R45). -/
theorem flagsRead_eq_filter (c : Cond) :
    flagsRead c = [Flag.n, .z, .c, .v].filter fun f => decide (f ∈ flagsRead c) := by
  cases c <;> rfl

theorem firstUnwritten_eq_find? (fs : List Flag) (s : State) :
    firstUnwritten fs s = fs.find? fun f => !isWritten (.flag s.mode f) s := by
  induction fs with
  | nil => rfl
  | cons f rest ih =>
    rw [firstUnwritten, List.find?_cons, ih, isWritten]
    cases s.written.getFlag s.mode f <;> rfl

/-- The first unwritten of the listed flags is the first, in the order N, Z, C, V, that is listed and unwritten. -/
theorem firstUnwritten_flagsRead (c : Cond) (s : State) : firstUnwritten (flagsRead c) s =
    [Flag.n, .z, .c, .v].find? fun f => decide (f ∈ flagsRead c) && !isWritten (.flag s.mode f) s := by
  have h := congrArg (List.find? fun f => !isWritten (.flag s.mode f) s) (flagsRead_eq_filter c)
  rw [List.find?_filter] at h
  simpa only [firstUnwritten_eq_find?, Bool.decide_and, Bool.decide_eq_true] using h

/-- Settles O10: the evaluator searches the listed flags, which are those of the predicate. -/
theorem conditionReadsFlags : Obligations.ConditionReadsFlags := by
  refine ⟨mem_flagsRead_iff, fun c s => ?_⟩
  rw [← firstUnwritten_flagsRead]
  rfl

end Sys2Proof.Proofs
end

section
/-! The host's ports to registers, flags and modes (10_state.md R22, R23, R27-R29, R33-R35, R45). -/
namespace Sys2Proof.Proofs
open Sys2Proof.Machine

/-! ### Registers -/

theorem hostReadReg_eq_none (i : Reg) (s : State) :
    hostReadReg i s = none ↔ isWritten (.reg (regSlot s.mode i)) s = false := by
  simp [hostReadReg, isWritten]

/-- A host read that answers a value answers the register's, and the register is written. -/
theorem hostReadReg_eq_some (i : Reg) (v : Word) (s : State) :
    hostReadReg i s = some v ↔ Readable i s ∧ readReg i s = v := by
  simp [hostReadReg, isWritten]

/-- A low register is the slot of its number in every mode (R22). -/
theorem regSlot_low (m : Mode) (i : Fin 13) : regSlot m (BitVec.ofNat 4 i.val) = .gpr i := by
  have h : (BitVec.ofNat 4 i.val).toNat = i.val := by
    rw [BitVec.toNat_ofNat]
    omega
  have hi : (BitVec.ofNat 4 i.val).toNat < 13 := by omega
  rw [regSlot, dif_pos hi]
  exact congrArg RegSlot.gpr (Fin.ext h)

theorem readReg_low (i : Fin 13) (s : State) : readReg (BitVec.ofNat 4 i.val) s = s.regs.gpr[i] := by
  rw [readReg, regSlot_low]
  rfl

theorem readReg_13 (s : State) : readReg 13 s = (s.regs.bank.get s.mode).r13 := rfl

theorem readReg_14 (s : State) : readReg 14 s = (s.regs.bank.get s.mode).r14 := rfl

/-- Settles O29: the slots of R22, and a write that changes one of them. -/
theorem registerPorts : Obligations.RegisterPorts := by
  refine ⟨hostReadReg_eq_none, fun s i => readReg_low i s, fun s => ⟨readReg_13 s, readReg_14 s, rfl, rfl⟩,
    fun i v s h => ((hostReadReg_eq_some i v s).mp h).2.symm, fun i v s => ?_⟩
  have hread : readReg i (writeReg i v s) = v := by rw [readReg_writeReg, if_pos rfl]
  have hmark : Readable i (writeReg i v s) := RegFile.getReg_setReg_same _ _ _
  exact ⟨_, rfl, hread, (hostReadReg_eq_some _ _ _).mpr ⟨hmark, hread⟩, writeReg_only i v s, writeReg_modes i v s,
    fun h15 => by rw [pcOf_writeReg, if_pos h15]⟩

/-! ### Flags -/

theorem hostGetFlag_eq_none (f : Flag) (s : State) :
    hostGetFlag f s = none ↔ isWritten (.flag s.mode f) s = false := by
  simp [hostGetFlag, isWritten]

theorem hostGetFlag_eq_some (f : Flag) (b : Bool) (s : State) :
    hostGetFlag f s = some b ↔ isWritten (.flag s.mode f) s = true ∧ getFlag f s = b := by
  simp [hostGetFlag, isWritten]

/-- The flag word reads where all four flags are written (log entry 23). -/
theorem hostFlagWord_eq_some (w : Word) (s : State) :
    hostFlagWord s = some w ↔ (∀ f, isWritten (.flag s.mode f) s = true) ∧ flagWord (activeFlags s) = w := by
  have all : firstUnwritten [.n, .z, .c, .v] s = none ↔ ∀ f, isWritten (.flag s.mode f) s = true := by
    rw [firstUnwritten_none]
    exact ⟨fun h f => h f (by cases f <;> decide), fun h f _ => h f⟩
  rw [← all, hostFlagWord]
  cases firstUnwritten [.n, .z, .c, .v] s <;> simp

theorem hostFlagWord_eq_none (s : State) :
    hostFlagWord s = none ↔ ∃ f, isWritten (.flag s.mode f) s = false := by
  rw [Option.eq_none_iff_forall_ne_some]
  simp only [ne_eq, hostFlagWord_eq_some, not_and]
  constructor
  · intro h
    by_contra hne
    exact h _ (fun f => by simpa using not_exists.mp hne f) rfl
  · rintro ⟨f, hf⟩ _ hall
    exact absurd (hall f) (by simp [hf])

/-- The bits of the flag word (R29). -/
theorem flagWord_getLsbD (fs : FlagSet Bool) (j : Nat) : (flagWord fs).getLsbD j =
    if j = 31 then fs.n else if j = 30 then fs.z else if j = 29 then fs.c else if j = 28 then fs.v else false := by
  simp only [flagWord, BitVec.getLsbD_or, putBit_getLsbD]
  by_cases h31 : j = 31
  · subst h31; simp
  by_cases h30 : j = 30
  · subst h30; simp
  by_cases h29 : j = 29
  · subst h29; simp
  by_cases h28 : j = 28
  · subst h28; simp
  simp [h31, h30, h29, h28]

/-- The flag word of the top four bits of a word is those bits. -/
theorem flagWord_of_bits (w : Word) :
    flagWord ⟨w.getLsbD 31, w.getLsbD 30, w.getLsbD 29, w.getLsbD 28⟩ = w &&& 0xF0000000 := by
  apply BitVec.eq_of_getLsbD_eq
  intro j hj
  rw [flagWord_getLsbD, BitVec.getLsbD_and]
  interval_cases j <;> simp

theorem setFlag_modes (f : Flag) (b : Bool) (s : State) : SameModes s (setFlag f b s) := ⟨rfl, rfl, rfl⟩

/-- Writing the flag word changes the four flags of the active bank and nothing else. -/
theorem setFlagWord_flagsOnly (w : Word) (s : State) : FlagsOnly s (setFlagWord w s) :=
  (((setFlag_flagsOnly .n _ s).trans (setFlag_flagsOnly .z _ _)).trans (setFlag_flagsOnly .c _ _)).trans
    (setFlag_flagsOnly .v _ _)

/-- The four flags after writing the flag word, each with its mark (R29). -/
theorem setFlagWord_flags (w : Word) (s : State) :
    activeFlags (setFlagWord w s) = ⟨w.getLsbD 31, w.getLsbD 30, w.getLsbD 29, w.getLsbD 28⟩ ∧
    ∀ f, isWritten (.flag s.mode f) (setFlagWord w s) = true := by
  constructor
  · simp [activeFlags, setFlagWord, RegFile.setFlag, FlagSet.set]
  · intro f
    cases f <;> simp [isWritten, setFlagWord, RegFile.getFlag_setFlag]

/-- Settles O31: a flag write sets one flag of the active bank, a word write all four, and reads follow the marks. -/
theorem flagPorts : Obligations.FlagPorts := by
  refine ⟨hostGetFlag_eq_none, hostFlagWord_eq_none, fun f b s h => ((hostGetFlag_eq_some f b s).mp h).2.symm,
    fun w s h j => ?_, fun f b s => ?_, fun w s => ?_⟩
  · rw [← ((hostFlagWord_eq_some w s).mp h).2]
    exact flagWord_getLsbD _ j
  · obtain ⟨hget, hmark⟩ := setFlag_same f b s
    exact ⟨_, rfl, hget, (hostGetFlag_eq_some _ _ _).mpr ⟨hmark, hget⟩, fun _ _ h => setFlag_other b s h,
      setFlag_reg f b s, setFlag_side f b s, setFlag_modes f b s⟩
  · obtain ⟨hflags, hmarks⟩ := setFlagWord_flags w s
    have hword : hostFlagWord (setFlagWord w s) = some (w &&& 0xF0000000) :=
      (hostFlagWord_eq_some _ _).mpr ⟨hmarks, by rw [hflags, flagWord_of_bits]⟩
    have hf := setFlagWord_flagsOnly w s
    exact ⟨_, rfl, congrArg FlagSet.n hflags, congrArg FlagSet.z hflags, congrArg FlagSet.c hflags,
      congrArg FlagSet.v hflags, hword, hf.others, hf.regs, hf.side, rfl, rfl, rfl⟩

/-! ### Modes -/

/-- An encoding outside R34's table selects Undefined. -/
theorem modeOfBits_other {e : BitVec 5} (h : e ∉ [0b10000#5, 0b10001#5, 0b10010#5, 0b10011#5, 0b10111#5]) :
    modeOfBits e = .undefined := by
  simp only [List.mem_cons, List.not_mem_nil, or_false, not_or] at h
  obtain ⟨h0, h1, h2, h3, h7⟩ := h
  unfold modeOfBits
  exact (if_neg h0).trans ((if_neg h1).trans ((if_neg h2).trans ((if_neg h3).trans (if_neg h7))))

/-- Settles O30: a mode switch is an update of one field, and the banked reads go by it. -/
theorem processorStatePorts : Obligations.ProcessorStatePorts :=
  ⟨fun m s => ⟨switchOperatingMode m s, rfl, rfl, readReg_13 _, readReg_14 _, rfl⟩, fun _ _ => rfl, rfl, rfl, rfl, rfl,
    rfl, rfl, fun _ => modeOfBits_other, fun _ _ => rfl⟩

end Sys2Proof.Proofs
end

section
/-! The state at the start of a session (10_state.md R44; 70_reset_and_hazards.md R200-R203). -/
namespace Sys2Proof.Proofs
open Sys2Proof.Machine

/-- Settles O56: every slot of a filled register file reads as the fill. -/
theorem resetValues : Obligations.ResetValues :=
  ⟨rfl, rfl, rfl, rfl, RegFile.getReg_fill 0 false, RegFile.getFlag_fill 0 false, rfl, rfl, rfl, rfl, rfl, rfl, rfl⟩

/-- A launch that succeeds has images of the loader's sizes, and starts in `launchState` (R203). -/
theorem launch_ok {l : Launch} {s : State} (h : launch l = .ok s) :
    l.bootImage.length = 0x4000 ∧ 1 ≤ l.romImage.length ∧ l.romImage.length ≤ maxRomSize ∧ s = launchState l := by
  unfold launch at h
  split at h
  · rename_i hb
    split at h <;> cases h
    rename_i hr
    exact ⟨hb, hr.1, hr.2, rfl⟩
  · cases h

/-! ### Memory -/

/-- An image reads as its bytes, and as 0 elsewhere. -/
theorem read_imageCells (bs : List Byte) (a k : Nat) :
    Memory.read (imageCells bs a) k = if a ≤ k then (bs[k - a]?).getD 0#8 else 0#8 := by
  have h := imageCells_read bs a [] k fun _ _ => rfl
  rw [List.append_nil] at h
  rw [h]
  by_cases hk : a ≤ k
  · by_cases hl : k < a + bs.length
    · rw [if_pos ⟨hk, hl⟩, if_pos hk]
    · rw [if_neg (by omega), if_pos hk, List.getElem?_eq_none (by omega)]
      rfl
  · rw [if_neg (by omega), if_neg hk]
    rfl

/-- Memory at the start: the boot image from 0, the ROM image from 0x08000000, 0 between. -/
theorem read_launchState (l : Launch) (hb : l.bootImage.length = 0x4000) (k : Nat) :
    Memory.read (launchState l).mem k =
      if k < 0x4000 then (l.bootImage[k]?).getD 0#8
      else if 0x08000000 ≤ k then (l.romImage[k - 0x08000000]?).getD 0#8 else 0#8 := by
  have hrom := read_imageCells l.romImage 0x08000000 k
  have hmem := imageCells_read l.bootImage 0 (imageCells l.romImage 0x08000000) k fun _ hk => by
    rw [hrom, if_neg (by omega)]
  change Memory.read (imageCells l.bootImage 0 ++ imageCells l.romImage 0x08000000) k = _
  rw [hmem, hb]
  by_cases hk : k < 0x4000
  · rw [if_pos (by omega), if_pos hk, Nat.sub_zero]
  · rw [if_neg (by omega), if_neg hk, hrom]

/-- An address in the primary copy of a region resolves for an unprotected read (20_memory.md R83). -/
theorem rawResolve_of_inPrimary {p : Params} {r : Region} {a : Word} (h : inPrimary p r a = true) :
    ∃ l, rawResolve p a = .ok l := by
  unfold rawResolve
  repeat' split
  all_goals first
    | exact ⟨_, rfl⟩
    | (cases r <;> contradiction)

theorem rawRead_of_inPrimary {s : State} {r : Region} {a : Word} (h : inPrimary s.params r a = true) :
    rawRead a .byte s = .ok ((Memory.read s.mem a.toNat).setWidth 32) := by
  obtain ⟨_, hl⟩ := rawResolve_of_inPrimary h
  exact rawRead_byte hl

/-- An unprotected byte read that answers, answers the backing byte (20_memory.md R84). -/
theorem rawRead_byte_value {a m : Word} {s : State} (h : rawRead a .byte s = .ok m) :
    m = (Memory.read s.mem a.toNat).setWidth 32 := by
  rcases rawResolve_cases s.params a with hr | ⟨l, hr, _⟩
  · rw [rawRead_byte_error hr] at h
    cases h
  · rw [rawRead_byte hr] at h
    exact (Except.ok.inj h).symm

section
variable {l : Launch} (hb : l.bootImage.length = 0x4000)
include hb

theorem rawRead_boot {k : Nat} (hk : k < l.bootImage.length) :
    rawRead (BitVec.ofNat 32 k) .byte (launchState l) = .ok (l.bootImage[k].setWidth 32) := by
  have ha : (BitVec.ofNat 32 k).toNat = k := by rw [BitVec.toNat_ofNat]; omega
  have hp : inPrimary (launchState l).params .boot (BitVec.ofNat 32 k) = true := by
    simp only [inPrimary, regionBase, regionSize, ha, Bool.and_eq_true, decide_eq_true_eq]
    omega
  rw [rawRead_of_inPrimary hp, ha, read_launchState l hb, if_pos (by omega), List.getElem?_eq_getElem hk]
  rfl

theorem rawRead_rom (hr : l.romImage.length ≤ maxRomSize) {k : Nat} (hk : k < l.romImage.length) :
    rawRead (BitVec.ofNat 32 (0x08000000 + k)) .byte (launchState l) = .ok (l.romImage[k].setWidth 32) := by
  unfold maxRomSize at hr
  have ha : (BitVec.ofNat 32 (0x08000000 + k)).toNat = 0x08000000 + k := by rw [BitVec.toNat_ofNat]; omega
  have hsize : (launchState l).params.romSize = l.romImage.length := rfl
  have hp : inPrimary (launchState l).params .rom (BitVec.ofNat 32 (0x08000000 + k)) = true := by
    simp only [inPrimary, regionBase, regionSize, ha, hsize, Bool.and_eq_true, decide_eq_true_eq]
    omega
  rw [rawRead_of_inPrimary hp, ha, read_launchState l hb, if_neg (by omega), if_pos (by omega),
    Nat.add_sub_cancel_left, List.getElem?_eq_getElem hk]
  rfl

/-- Between the images every byte of storage is 0 (R202). -/
theorem rawRead_between {a m : Word} (h2 : 0x02000000 ≤ a.toNat) (h8 : a.toNat < 0x08000000)
    (h : rawRead a .byte (launchState l) = .ok m) : m = 0 := by
  rw [rawRead_byte_value h, read_launchState l hb, if_neg (by omega), if_neg (by omega)]
  rfl

end

/-! ### Registers and marks -/

/-- Every register but the counter starts at 0 (R44). -/
theorem launchState_getReg (l : Launch) {r : RegSlot} (hr : r ≠ .gpr15) : (launchState l).regs.getReg r = 0 :=
  (RegFile.getReg_setReg_ne _ hr l.resetPc).trans (RegFile.getReg_fill 0 false r)

theorem launchState_getFlag (l : Launch) (m : Mode) (f : Flag) : (launchState l).regs.getFlag m f = false :=
  RegFile.getFlag_fill 0 false m f

/-- Under UNWRITTEN every mark but the counter's starts clear (R44, R45). -/
theorem resetMarks_unwritten_getReg {r : RegSlot} (hr : r ≠ .gpr15) :
    (resetMarks .unwritten).getReg r = false :=
  (RegFile.getReg_setReg_ne _ hr true).trans (RegFile.getReg_fill false false r)

theorem resetMarks_unwritten_getFlag (m : Mode) (f : Flag) : (resetMarks .unwritten).getFlag m f = false :=
  RegFile.getFlag_fill false false m f

theorem resetMarks_gpr15 (r : ResetRegs) : (resetMarks r).gpr15 = true := by
  cases r <;> rfl

/-- Settles O54: the fields of `launchState`, with the marks under either setting and the two images read back. -/
theorem launchValues : Obligations.LaunchValues := by
  refine ⟨fun _ _ => ⟨rfl, rfl, rfl⟩, fun l s h => ?_⟩
  obtain ⟨hb, _, hr, rfl⟩ := launch_ok h
  have hmarks : (launchState l).written = resetMarks l.resetRegs := rfl
  refine ⟨rfl, rfl, rfl, resetMarks_gpr15 _, fun hz => ⟨?_, fun r => launchState_getReg l, launchState_getFlag l⟩,
    fun hu => ⟨fun r h15 => ?_, fun m f => ?_⟩, fun k => rawRead_boot hb, fun k => rawRead_rom hb hr,
    fun a m => rawRead_between hb, rfl, rfl, fun n => ?_, rfl, fun n => ?_, rfl, rfl, rfl, rfl, rfl, rfl⟩
  · rw [AllWritten, hmarks, hz]
    rfl
  · rw [isWritten, hmarks, hu]
    exact resetMarks_unwritten_getReg h15
  · rw [isWritten, hmarks, hu]
    exact resetMarks_unwritten_getFlag m f
  · exact Vector.getElem_replicate _
  · exact Vector.getElem_replicate _

end Sys2Proof.Proofs
end

section
/-! Where an address resolves, window by window, and which addresses are canonical (20_memory.md R52-R60, R83). -/
namespace Sys2Proof.Proofs
open Sys2Proof.Machine

/-! ### The windows -/

section
variable {a : Word}

theorem resolve_ram (p : Params) {r : Region} (hr : r ∈ [Region.wram1, Region.wram2, Region.palette, Region.oam])
    (hlo : regionBase r ≤ a.toNat) (hhi : a.toNat < regionBase r + 0x01000000) :
    resolve p a = .ok ⟨a, r, (a.toNat - regionBase r) % regionSize p r⟩ := by
  simp only [List.mem_cons, List.not_mem_nil, or_false] at hr
  unfold resolve
  rcases hr with rfl | rfl | rfl | rfl <;> simp only [regionBase] at hlo hhi
  · rw [show a.toNat / 0x1000000 = 2 by omega]; rfl
  · rw [show a.toNat / 0x1000000 = 3 by omega]; rfl
  · rw [show a.toNat / 0x1000000 = 5 by omega]; rfl
  · rw [show a.toNat / 0x1000000 = 7 by omega]; rfl

theorem resolve_vram (p : Params) (hlo : 0x06000000 ≤ a.toNat) (hhi : a.toNat < 0x07000000) :
    resolve p a = .ok ⟨a, .vram, vramFold p (a.toNat - 0x06000000)⟩ := by
  simp only [resolve, show a.toNat / 0x1000000 = 6 by omega]

theorem resolve_romWindow (p : Params) {base : Nat} (hb : base ∈ [0x08000000, 0x0A000000, 0x0C000000])
    (hlo : base ≤ a.toNat) (hhi : a.toNat < base + 0x02000000) : resolve p a = romIndex p a base := by
  simp only [List.mem_cons, List.not_mem_nil, or_false] at hb
  rcases hb with rfl | rfl | rfl
  · rcases (by omega : a.toNat / 0x1000000 = 8 ∨ a.toNat / 0x1000000 = 9) with hq | hq <;> simp only [resolve, hq]
  · rcases (by omega : a.toNat / 0x1000000 = 10 ∨ a.toNat / 0x1000000 = 11) with hq | hq <;> simp only [resolve, hq]
  · rcases (by omega : a.toNat / 0x1000000 = 12 ∨ a.toNat / 0x1000000 = 13) with hq | hq <;> simp only [resolve, hq]

theorem resolve_ioWindow (p : Params) (hlo : 0x04000000 ≤ a.toNat) (hhi : a.toNat < 0x05000000) :
    resolve p a = if a.toNat < 0x04000400 then .ok ⟨a, .io, a.toNat - 0x04000000⟩ else .error (.outOfRange a) := by
  simp only [resolve, show a.toNat / 0x1000000 = 4 by omega]

theorem resolve_bootWindow (p : Params) (hhi : a.toNat < 0x02000000) :
    resolve p a = if a.toNat < 0x4000 then .ok ⟨a, .boot, a.toNat⟩ else .error (.outOfRange a) := by
  unfold resolve
  rcases (by omega : a.toNat / 0x1000000 = 0 ∨ a.toNat / 0x1000000 = 1) with hq | hq <;> rw [hq]
  · rfl
  · exact (if_neg (by omega)).symm

/-- Nothing lies above the last ROM window. -/
theorem resolve_above (p : Params) (hlo : 0x0E000000 ≤ a.toNat) : resolve p a = .error (.outOfRange a) := by
  rcases resolve_cases p a with h | ⟨l, h, _⟩
  · exact h
  · have := resolve_places h
    omega

end

theorem regionSize_ram (p : Params) {r : Region} (hr : r ∈ [Region.wram1, Region.wram2, Region.palette, Region.oam]) :
    0 < regionSize p r ∧ regionSize p r ≤ 0x01000000 := by
  simp only [List.mem_cons, List.not_mem_nil, or_false] at hr
  rcases hr with rfl | rfl | rfl | rfl <;> simp only [regionSize] <;> omega

/-- Settles O32: the reduction modulo the size is division with remainder. -/
theorem ramMirroring : Obligations.RamMirroring := by
  intro p r a hr hlo hhi
  refine ⟨_, resolve_ram p hr hlo hhi, rfl, rfl, Nat.mod_lt _ (regionSize_ram p hr).1,
    (a.toNat - regionBase r) / regionSize p r, ?_⟩
  have hdiv := Nat.mod_add_div (a.toNat - regionBase r) (regionSize p r)
  rw [Nat.mul_comm] at hdiv
  change a.toNat = regionBase r + _ % _ + _
  omega

/-- The fold is the same one mirror period on (R55). -/
theorem vramFold_period (p : Params) (o : Nat) :
    vramFold p (o + if p.vramMirror = .gba128 then 0x20000 else 0x18000) = vramFold p o := by
  unfold vramFold
  cases p.vramMirror <;> simp

/-- Settles O33: the fold's cases. -/
theorem vramMirroring : Obligations.VramMirroring := by
  refine ⟨fun p a hlo hhi => ⟨_, resolve_vram p hlo hhi, rfl, rfl⟩, vramFold_lt,
    fun p o hp => ⟨fun h => ?_, fun h => ?_, ?_⟩, fun p o hp => ⟨?_, ?_⟩⟩
  · simp only [vramFold, hp, if_pos h]
  · simp only [vramFold, hp, if_neg (Nat.not_lt.mpr h)]
  · simpa [hp] using vramFold_period p o
  · simp only [vramFold, hp]
  · simpa [hp] using vramFold_period p o

/-- Settles O34: one window after the other. -/
theorem romAliasesAndHoles : Obligations.RomAliasesAndHoles :=
  ⟨fun p _ _ => resolve_romWindow p, fun p _ => resolve_ioWindow p, fun p _ => resolve_bootWindow p,
    fun p _ => resolve_above p⟩

/-! ### Resolved addresses -/

/-- The primary copies are disjoint, whatever the ROM's size. -/
theorem primary_disjoint {p : Params} {r q : Region} {m n : Nat} (hm : m < regionSize p r) (hn : n < regionSize p q)
    (h : regionBase r + m = regionBase q + n) : r = q := by
  cases r <;> cases q <;> first
    | rfl
    | (simp only [regionBase, regionSize] at hm hn h; omega)

/-- Settles O35: two bytes of the same primary copy are told apart by their offsets. -/
theorem resolvesToOneByte : Obligations.ResolvesToOneByte := by
  refine ⟨fun p a l h => ⟨resolve_bus h, resolve_offset_lt h, l.region, l.offset, resolve_offset_lt h, rfl⟩,
    fun p a b l k hl hk => ⟨fun h => ?_, fun ⟨hr, ho⟩ => ?_⟩⟩
  · have hr := primary_disjoint (resolve_offset_lt hl) (resolve_offset_lt hk) h
    rw [resolvedAddr, resolvedAddr, hr] at h
    exact ⟨hr, Nat.add_left_cancel h⟩
  · rw [resolvedAddr, resolvedAddr, hr, ho]

/-! ### Canonical addresses -/

theorem inPrimary_iff {p : Params} {r : Region} {a : Word} :
    inPrimary p r a = true ↔ regionBase r ≤ a.toNat ∧ a.toNat < regionBase r + regionSize p r := by
  simp only [inPrimary, Bool.and_eq_true, decide_eq_true_eq]

/-- The canonical addresses are the addresses of the bytes of the regions (R83). -/
theorem rawResolve_isOk_iff {p : Params} {a : Word} :
    (∃ l, rawResolve p a = .ok l) ↔ IsBackingAddr p a.toNat := by
  constructor
  · rintro ⟨l, h⟩
    obtain ⟨_, hlt, haddr⟩ := rawResolve_ok h
    exact ⟨l.region, l.offset, hlt, haddr.symm⟩
  · rintro ⟨r, o, ho, ha⟩
    exact rawResolve_of_inPrimary (inPrimary_iff.mpr (by omega) : inPrimary p r a = true)

theorem isBackingAddr_iff {p : Params} {k : Nat} : IsBackingAddr p k ↔
    k < 0x00004000 ∨ (0x02000000 ≤ k ∧ k < 0x02040000) ∨ (0x03000000 ≤ k ∧ k < 0x03008000) ∨
    (0x04000000 ≤ k ∧ k < 0x04000400) ∨ (0x05000000 ≤ k ∧ k < 0x05000400) ∨ (0x06000000 ≤ k ∧ k < 0x06018000) ∨
    (0x07000000 ≤ k ∧ k < 0x07000400) ∨ (0x08000000 ≤ k ∧ k < 0x08000000 + p.romSize) := by
  constructor
  · rintro ⟨r, o, ho, rfl⟩
    cases r <;> simp only [regionBase, regionSize] at ho ⊢ <;> omega
  · have inside : ∀ r b n, regionBase r = b → regionSize p r = n → b ≤ k → k < b + n → IsBackingAddr p k := by
      rintro r _ _ rfl rfl hlo hhi
      exact ⟨r, k - regionBase r, by omega, by omega⟩
    rintro (h | h | h | h | h | h | h | h)
    · exact inside .boot 0 0x4000 rfl rfl (by omega) (by omega)
    · exact inside .wram1 0x02000000 0x40000 rfl rfl (by omega) (by omega)
    · exact inside .wram2 0x03000000 0x8000 rfl rfl (by omega) (by omega)
    · exact inside .io 0x04000000 0x400 rfl rfl (by omega) (by omega)
    · exact inside .palette 0x05000000 0x400 rfl rfl (by omega) (by omega)
    · exact inside .vram 0x06000000 0x18000 rfl rfl (by omega) (by omega)
    · exact inside .oam 0x07000000 0x400 rfl rfl (by omega) (by omega)
    · exact inside .rom 0x08000000 p.romSize rfl rfl (by omega) (by omega)

/-- A byte of a primary copy is what its own address resolves to, the ROM being no longer than its window (R83). -/
theorem resolve_primary {p : Params} {a : Word} {r : Region} {o : Nat} (hrom : p.romSize ≤ maxRomSize)
    (ho : o < regionSize p r) (ha : a.toNat = regionBase r + o) : resolve p a = .ok ⟨a, r, o⟩ := by
  have ho' : a.toNat - regionBase r = o := by omega
  unfold maxRomSize at hrom
  by_cases hr : r ∈ [Region.wram1, Region.wram2, Region.palette, Region.oam]
  · have hsize := (regionSize_ram p hr).2
    rw [resolve_ram p hr (by omega) (by omega), ho', Nat.mod_eq_of_lt ho]
  cases r <;> simp only [regionBase, regionSize] at ho ha ho'
  case boot => rw [resolve_bootWindow p (by omega), if_pos (by omega), show a.toNat = o by omega]
  case io => exact (resolve_io ha ho).1
  case vram =>
    have hfold : vramFold p o = o := by
      rcases vramFold_cases p o with ⟨_, _, h⟩ | ⟨_, _, _⟩ | ⟨_, h⟩ <;> omega
    rw [resolve_vram p (by omega) (by omega), ho', hfold]
  case rom =>
    rw [resolve_romWindow p (base := 0x08000000) List.mem_cons_self (by omega) (by omega), romIndex, ho', if_pos ho]
  all_goals exact absurd (by decide) hr

/-- Settles O36: a canonical address resolves to itself, and a resolved address is that of a byte of its region. -/
theorem canonicalAreResolved : Obligations.CanonicalAreResolved := by
  refine ⟨fun p a => rawResolve_isOk_iff.trans isBackingAddr_iff, fun p a l h => (rawResolve_ok h).2.2,
    fun p a hrom => rawResolve_isOk_iff.trans ⟨?_, ?_⟩⟩
  · rintro ⟨r, o, ho, ha⟩
    exact ⟨a, _, resolve_primary hrom ho ha, ha.symm⟩
  · rintro ⟨b, l, hl, ha⟩
    exact ⟨l.region, l.offset, resolve_offset_lt hl, ha.symm⟩

end Sys2Proof.Proofs
end

section
/-! Accesses of several bytes: the span they resolve, their faults, and their bytes (20_memory.md R59, R80, R81, R84,
R86). -/
namespace Sys2Proof.Proofs
open Sys2Proof.Machine

/-! ### Faults -/

/-- The first address of a span that does not resolve gives the fault. -/
theorem spanOf_error_of_first {res : Word → Except PortFault Loc} {a : Word} {n k : Nat} {e : PortFault} (hk : k < n)
    (hgood : ∀ j, j < k → ∃ l, res (a + BitVec.ofNat 32 j) = .ok l) (hbad : res (a + BitVec.ofNat 32 k) = .error e) :
    spanOf res a n = .error e := by
  cases hs : spanOf res a n with
  | ok ls =>
    obtain ⟨hlen, heach⟩ := spanOf_ok hs
    cases hbad.symm.trans (heach k (by omega))
  | error e' =>
    obtain ⟨k', _, hbad', hgood'⟩ := spanOf_error hs
    rcases Nat.lt_trichotomy k k' with h | rfl | h
    · obtain ⟨l, hl⟩ := hgood' k h
      cases hbad.symm.trans hl
    · cases hbad'.symm.trans hbad
      rfl
    · obtain ⟨l, hl⟩ := hgood k' h
      cases hbad'.symm.trans hl

theorem resolve_error_of_not_ok {p : Params} {a : Word} (h : ¬ ∃ l, resolve p a = .ok l) :
    resolve p a = .error (.outOfRange a) :=
  (resolve_cases p a).resolve_right fun ⟨l, hl, _⟩ => h ⟨l, hl⟩

theorem rawResolve_error_of_not_ok {p : Params} {a : Word} (h : ¬ ∃ l, rawResolve p a = .ok l) :
    rawResolve p a = .error (.outOfRange a) :=
  (rawResolve_cases p a).resolve_right fun ⟨l, hl, _⟩ => h ⟨l, hl⟩

section
variable {a : Word} {w : Width} {s : State} {e : PortFault}

/-- A protected access whose span faults ends with that fault. -/
theorem memAccess_error (v : Word) (h : spanOf (resolve s.params) a w.bytes = .error e) :
    memRead a w s = .error e ∧ memWrite a w v s = .error e := by
  unfold memRead memWrite
  rw [h]
  exact ⟨rfl, rfl⟩

theorem rawAccess_error (v : Word) (h : spanOf (rawResolve s.params) a w.bytes = .error e) :
    rawRead a w s = .error e ∧ rawWrite a w v s = .error e := by
  unfold rawRead rawWrite
  rw [h]
  exact ⟨rfl, rfl⟩

end

/-- Settles O37: the span ends at its first bad byte. -/
theorem accessFaultsAtFirstBadByte : Obligations.AccessFaultsAtFirstBadByte := fun _ v _ _ _ hk hgood hbad =>
  memAccess_error v (spanOf_error_of_first hk hgood (resolve_error_of_not_ok hbad))

/-! ### What an access that succeeds answers -/

section
variable {a v : Word} {b : Byte} {w : Width} {s t : State} {e : PortFault}

theorem readByteP_eq_ok : readByteP a s = .ok b ↔ ∃ l, resolve s.params a = .ok l ∧ loadByte l s = b := by
  unfold readByteP
  cases resolve s.params a <;> simp

theorem resolve_of_readByteP_error (h : readByteP a s = .error e) : resolve s.params a = .error e := by
  unfold readByteP at h
  cases hr : resolve s.params a <;> rw [hr] at h <;> cases h
  rfl

theorem writeByteP_eq_ok : writeByteP a b s = .ok t ↔ ∃ l, resolve s.params a = .ok l ∧ storeByte l b s = t := by
  unfold writeByteP
  cases resolve s.params a <;> simp

theorem memRead_eq_ok : memRead a w s = .ok v ↔
    ∃ ls, spanOf (resolve s.params) a w.bytes = .ok ls ∧ leWord (ls.map fun l => loadByte l s) = v := by
  unfold memRead
  cases spanOf (resolve s.params) a w.bytes <;> simp

theorem memWrite_eq_ok : memWrite a w v s = .ok t ↔
    ∃ ls, spanOf (resolve s.params) a w.bytes = .ok ls ∧ storeAll storeByte ls v s = t := by
  unfold memWrite
  cases spanOf (resolve s.params) a w.bytes <;> simp

theorem rawRead_eq_ok : rawRead a w s = .ok v ↔
    ∃ ls, spanOf (rawResolve s.params) a w.bytes = .ok ls ∧ leWord (ls.map fun l => backingByte l s) = v := by
  unfold rawRead
  cases spanOf (rawResolve s.params) a w.bytes <;> simp

theorem rawWrite_eq_ok : rawWrite a w v s = .ok t ↔
    ∃ ls, spanOf (rawResolve s.params) a w.bytes = .ok ls ∧ storeAll storeByteRaw ls v s = t := by
  unfold rawWrite
  cases spanOf (rawResolve s.params) a w.bytes <;> simp

end

/-! ### Reads compose their bytes -/

section
variable {res : Word → Except PortFault Loc} {load : Loc → Byte} {a v : Word} {w : Width} {s : State}

/-- A span whose bytes load as the bytes of `v` composes to the low bytes of `v`. -/
theorem span_composes_lowBytes
    (h : ∀ k, k < w.bytes → ∃ l, res (a + BitVec.ofNat 32 k) = .ok l ∧ load l = (v >>> (8 * k)).setWidth 8) :
    ∃ ls, spanOf res a w.bytes = .ok ls ∧ leWord (ls.map load) = lowBytes w v := by
  obtain ⟨ls, hs⟩ := spanOf_isOk fun k hk => (h k hk).imp fun _ hl => hl.1
  obtain ⟨hlen, heach⟩ := spanOf_ok hs
  refine ⟨ls, hs, (leWord_eq_lowBytes w v _ (by rw [List.length_map, hlen])).mpr fun k hk => ?_⟩
  rw [List.length_map] at hk
  obtain ⟨l, hl, hb⟩ := h k (hlen ▸ hk)
  cases hl.symm.trans (heach k hk)
  rw [List.getElem_map, hb]

/-- What a span composes to is the word whose bytes it loads, with no bits above. -/
theorem span_composes_iff :
    (∃ ls, spanOf res a w.bytes = .ok ls ∧ leWord (ls.map load) = v) ↔
    (∀ k, k < w.bytes → ∃ l, res (a + BitVec.ofNat 32 k) = .ok l ∧ load l = (v >>> (8 * k)).setWidth 8) ∧
      v = lowBytes w v := by
  constructor
  · rintro ⟨ls, hs, rfl⟩
    obtain ⟨hlen, heach⟩ := spanOf_ok hs
    have hw := w.bytes_le
    have hbyte : ∀ k, (hk : k < ls.length) → load ls[k] = (leWord (ls.map load) >>> (8 * k)).setWidth 8 := fun k hk => by
      rw [leWord_byte _ k (by omega), List.getElem?_map, List.getElem?_eq_getElem hk]
      rfl
    refine ⟨fun k hk => ⟨_, heach k (hlen ▸ hk), hbyte k (hlen ▸ hk)⟩, ?_⟩
    refine (leWord_eq_lowBytes w _ _ (by rw [List.length_map, hlen])).mpr fun k hk => ?_
    rw [List.getElem_map]
    exact hbyte k (by simpa using hk)
  · rintro ⟨h, hv⟩
    rw [hv]
    exact span_composes_lowBytes h

theorem memRead_composes : memRead a w s = .ok v ↔
    (∀ k, k < w.bytes → readByteP (a + BitVec.ofNat 32 k) s = .ok ((v >>> (8 * k)).setWidth 8)) ∧ v = lowBytes w v := by
  simp only [readByteP_eq_ok, memRead_eq_ok, span_composes_iff]

theorem memRead_lowBytes
    (h : ∀ k, k < w.bytes → readByteP (a + BitVec.ofNat 32 k) s = .ok ((v >>> (8 * k)).setWidth 8)) :
    memRead a w s = .ok (lowBytes w v) :=
  memRead_eq_ok.mpr (span_composes_lowBytes fun k hk => readByteP_eq_ok.mp (h k hk))

end

/-! ### A protected write is the chain of its byte writes -/

theorem spanOf_succ_ok {res : Word → Except PortFault Loc} {a : Word} {n : Nat} {ls : List Loc}
    (h : spanOf res a (n + 1) = .ok ls) :
    ∃ l rest, res a = .ok l ∧ spanOf res (a + 1) n = .ok rest ∧ ls = l :: rest := by
  rw [spanOf] at h
  cases hl : res a with
  | error e => rw [hl] at h; cases h
  | ok l =>
    rw [hl] at h
    cases hr : spanOf res (a + 1) n with
    | error e => simp only [hr] at h; cases h
    | ok rest =>
      simp only [hr] at h
      cases h
      exact ⟨l, rest, rfl, rfl, rfl⟩

theorem chain_eq_storeAll {a v : Word} {n : Nat} {ls : List Loc} {s : State}
    (h : spanOf (resolve s.params) a n = .ok ls) :
    (List.range n).foldlM (fun t k => writeByteP (a + BitVec.ofNat 32 k) ((v >>> (8 * k)).setWidth 8) t) s =
      .ok (storeAll storeByte ls v s) := by
  induction n generalizing a v ls s with
  | zero => cases h; rfl
  | succ n ih =>
    obtain ⟨l, rest, hl, hrest, rfl⟩ := spanOf_succ_ok h
    have hfirst : writeByteP (a + BitVec.ofNat 32 0) ((v >>> (8 * 0)).setWidth 8) s =
        .ok (storeByte l (v.setWidth 8) s) :=
      writeByteP_eq_ok.mpr ⟨l, by simpa using hl, by simp⟩
    rw [← (storeByte_frame l (v.setWidth 8) s).params] at hrest
    rw [List.range_succ_eq_map, List.foldlM_cons, hfirst, storeAll, ← ih hrest]
    change List.foldlM _ _ _ = _
    simp only [List.foldlM_map, addr_succ, ← BitVec.shiftRight_add, Nat.succ_eq_add_one, Nat.mul_succ, Nat.add_comm]

theorem memWrite_byte (a v : Word) (s : State) : memWrite a .byte v s = writeByteP a (v.setWidth 8) s := by
  unfold memWrite writeByteP
  rw [Width.bytes, spanOf]
  cases resolve s.params a <;> rfl

/-- Settles O38: reads compose, writes chain, and the first fault of either is that of the span. -/
theorem accessComposesBytes : Obligations.AccessComposesBytes := by
  refine ⟨fun _ _ _ _ => memRead_composes, fun a v w s h => ?_, memWrite_byte, fun _ _ _ _ => rfl,
    fun a v w s k e hk hgood hbad => ?_⟩
  · obtain ⟨ls, hs⟩ := spanOf_isOk h
    have hw := (memWrite_eq_ok (v := v)).mpr ⟨ls, hs, rfl⟩
    exact ⟨⟨_, hw⟩, hw.trans (chain_eq_storeAll hs).symm⟩
  · refine memAccess_error v (spanOf_error_of_first hk (fun j hj => ?_) (resolve_of_readByteP_error hbad))
    obtain ⟨b, hb⟩ := hgood j hj
    exact (readByteP_eq_ok.mp hb).imp fun _ hl => hl.1

end Sys2Proof.Proofs
end

section
/-! What a protected write to plain bytes stores, and where it reads back: through a mirror, unprotected, and as the next
fetch (20_memory.md R61, R85, R94). -/
namespace Sys2Proof.Proofs
open Sys2Proof.Machine

/-! ### Plain bytes -/

/-- Outside the synthesized bytes a protected read is the backing byte (R78). -/
theorem loadByte_backing {l : Loc} (h : ¬ (l.region = .io ∧ l.offset ∈ [0x004, 0x006, 0x007])) (s : State) :
    loadByte l s = backingByte l s := by
  simp only [List.mem_cons, List.not_mem_nil, or_false, not_and, not_or] at h
  rw [loadByte, if_neg fun hl => (h hl.1).1 hl.2, if_neg fun hl => (h hl.1).2.1 hl.2, if_neg fun hl => (h hl.1).2.2 hl.2]

theorem loadByte_plain {l : Loc} (h : ¬ IsSideEffectByte l) (s : State) : loadByte l s = backingByte l s :=
  loadByte_backing (fun ⟨hr, ho⟩ => h ⟨hr, .inl ((by decide : [0x004, 0x006, 0x007] ⊆ _) ho)⟩) s

theorem storeByte_mem_plain {l : Loc} (h : ¬ IsSideEffectByte l) (b : Byte) (s : State) :
    (storeByte l b s).mem = Memory.write s.mem (resolvedAddr l) b := by
  rcases storeByte_mem l b s with hm | ⟨hr, hkeep, _⟩
  · exact hm
  · have hstores : ioStores s.params l.offset = true := by
      rw [ioStores, if_neg fun ho => h ⟨hr, ?_⟩, if_neg fun ho => h ⟨hr, ?_⟩]
      all_goals simp; omega
    rw [hstores] at hkeep
    cases hkeep

section
variable {a b v : Word} {w : Width} {s t : State} (hwf : Memory.wf s.mem = true) (hplain : PlainBytes s.params w a)
  (h : memWrite a w v s = .ok t)
include hwf hplain h

theorem memWrite_plain_mem {k : Nat} (hk : k < w.bytes) :
    ∃ l, resolve s.params (a + BitVec.ofNat 32 k) = .ok l ∧
      Memory.read t.mem (resolvedAddr l) = (v >>> (8 * k)).setWidth 8 := by
  obtain ⟨ls, hs, rfl⟩ := memWrite_eq_ok.mp h
  obtain ⟨hlen, heach⟩ := spanOf_ok hs
  have hstore : ∀ l ∈ ls, ∀ b u, u.params = s.params →
      (storeByte l b u).mem = Memory.write u.mem (resolvedAddr l) b ∧ (storeByte l b u).params = s.params := by
    intro l hl b u hu
    obtain ⟨j, hj, rfl⟩ := List.getElem_of_mem hl
    exact ⟨storeByte_mem_plain (hplain j (hlen ▸ hj) _ (heach j hj)) b u, (storeByte_frame _ b u).params.trans hu⟩
  exact ⟨_, heach k (hlen ▸ hk), (storeAll_mem hstore (spanOf_resolve_nodup w.bytes_le hs) v s rfl hwf).1 k _⟩

/-- Each byte of the value reads back through every address of the same byte. -/
theorem memWrite_readByteP (hsame : SameBytes s.params w a b) {k : Nat} (hk : k < w.bytes) :
    readByteP (b + BitVec.ofNat 32 k) t = .ok ((v >>> (8 * k)).setWidth 8) := by
  obtain ⟨l, hl, hread⟩ := memWrite_plain_mem hwf hplain h hk
  obtain ⟨l', hl', hr, ho⟩ := hsame k hk l hl
  have hp := hplain k hk l hl
  rw [IsSideEffectByte, ← hr, ← ho] at hp
  rw [← (memWrite_frame h).params] at hl'
  rw [resolvedAddr, ← hr, ← ho] at hread
  exact readByteP_eq_ok.mpr ⟨l', hl', (loadByte_plain hp t).trans hread⟩

end

/-! ### Mirrors -/

/-- For single bytes: the same byte at both addresses. -/
theorem sameBytes_byte {p : Params} {a b : Word} {r : Region} {o : Nat} (ha : resolve p a = .ok ⟨a, r, o⟩)
    (hb : resolve p b = .ok ⟨b, r, o⟩) : SameBytes p .byte a b := by
  intro k hk l hl
  obtain rfl : k = 0 := by simpa [Width.bytes] using hk
  rw [BitVec.add_zero] at hl ⊢
  cases hl.symm.trans ha
  exact ⟨_, hb, rfl, rfl⟩

/-- Settles O45: one size on is the same remainder, one period on the same fold, and a plain byte reads as it was
stored. -/
theorem mirrorRoundTrip : Obligations.MirrorRoundTrip := by
  refine ⟨fun p r a b hr hlo hhi hb => ?_, fun p a b hlo hhi hb => ?_, fun a b v w s t hwf hsame hplain h =>
    memRead_lowBytes fun k => memWrite_readByteP hwf hplain h hsame⟩
  · refine sameBytes_byte (resolve_ram p hr hlo (by omega)) ?_
    rw [resolve_ram p hr (by omega) (by omega), hb, Nat.sub_add_comm hlo, Nat.add_mod_right]
  · refine sameBytes_byte (resolve_vram p hlo (by omega)) ?_
    rw [resolve_vram p (by omega) hhi, hb, Nat.sub_add_comm hlo, vramFold_period]

/-! ### The unprotected path -/

theorem resolvedAddr_lt {p : Params} {a : Word} {l : Loc} (h : resolve p a = .ok l) : resolvedAddr l < 2 ^ 32 := by
  rcases resolve_places h with ⟨_, rfl⟩ | ⟨_, _, rfl⟩ | ⟨_, _, rfl⟩ | ⟨_, _, rfl⟩ | ⟨_, _, rfl⟩ | ⟨_, _, rfl⟩ |
    ⟨_, _, rfl⟩ | ⟨_, _, _, _, _, rfl⟩ <;> simp only [resolvedAddr, regionBase]
  case inr.inr.inr.inr.inr.inl => have := vramFold_lt p (a.toNat - 0x06000000); omega
  all_goals omega

theorem toNat_resolvedAddr {p : Params} {a : Word} {l : Loc} (h : resolve p a = .ok l) :
    (BitVec.ofNat 32 (resolvedAddr l)).toNat = resolvedAddr l := by
  rw [BitVec.toNat_ofNat, Nat.mod_eq_of_lt (resolvedAddr_lt h)]

/-- A resolved address is canonical and names its own byte (R83). -/
theorem rawResolve_resolvedAddr {p : Params} {a : Word} {l : Loc} (h : resolve p a = .ok l) :
    ∃ m, rawResolve p (BitVec.ofNat 32 (resolvedAddr l)) = .ok m ∧ resolvedAddr m = resolvedAddr l := by
  have haddr := toNat_resolvedAddr h
  obtain ⟨m, hm⟩ := rawResolve_isOk_iff.mpr
    ⟨l.region, l.offset, resolve_offset_lt h, haddr⟩
  exact ⟨m, hm, (rawResolve_ok hm).2.2.trans haddr⟩

theorem rawRead_lowBytes {a v : Word} {w : Width} {s : State}
    (h : ∀ k, k < w.bytes → ∃ l, rawResolve s.params (a + BitVec.ofNat 32 k) = .ok l ∧
      backingByte l s = (v >>> (8 * k)).setWidth 8) :
    rawRead a w s = .ok (lowBytes w v) :=
  rawRead_eq_ok.mpr (span_composes_lowBytes h)

/-- Settles O46: the k-th byte is stored at the resolved address plus k, where the unprotected read finds it. -/
theorem rawReadAgrees : Obligations.RawReadAgrees := by
  intro a v w l s t hwf hplain hl hseq h
  refine rawRead_lowBytes fun k hk => ?_
  obtain ⟨m, hm, hread⟩ := memWrite_plain_mem hwf hplain h hk
  obtain ⟨m', hm', haddr⟩ := hseq k hk
  cases hm.symm.trans hm'
  obtain ⟨n, hn, hnm⟩ := rawResolve_resolvedAddr hm
  rw [(memWrite_frame h).params, ← BitVec.ofNat_add, ← haddr]
  exact ⟨n, hn, by rw [backingByte, hnm, hread]⟩

/-! ### The next fetch -/

/-- Settles O53: the fetch is a read of the bytes just written, of all four or of the low two. -/
theorem hostWriteIsFetched : Obligations.HostWriteIsFetched := by
  intro v s t hwf hplain h
  have hbytes : ∀ k, k < 4 → readByteP (pcOf s + BitVec.ofNat 32 k) t = .ok ((v >>> (8 * k)).setWidth 8) := fun k hk =>
    memWrite_readByteP hwf hplain h (fun _ _ l hl => ⟨l, hl, rfl, rfl⟩) hk
  have hframe := memWrite_frame h
  have hpc : pcOf t = pcOf s := congrArg RegFile.gpr15 hframe.regs
  unfold fetch
  rw [hpc, hframe.isa]
  cases s.isa
  · have hread : memRead (pcOf s) .word t = .ok v := memRead_lowBytes hbytes
    simp only [fetchWidth, hread, decodeFetched]
  · have hread : memRead (pcOf s) .half t = .ok ((v.setWidth 16).setWidth 32) :=
      memRead_lowBytes fun k hk => hbytes k (Nat.lt_trans hk (by decide))
    simp only [fetchWidth, hread, decodeFetched]
    simp

end Sys2Proof.Proofs
end

section
/-! Unprotected accesses: their domain, what a write stores and what it logs (20_memory.md R84). -/
namespace Sys2Proof.Proofs
open Sys2Proof.Machine

/-- From a canonical address an access does not wrap, and it does not run into cartridge ROM from below. -/
theorem canonical_add {p : Params} {a : Word} {k : Nat} (hrom : p.romSize ≤ maxRomSize) (ha : IsBackingAddr p a.toNat)
    (hk : k < 4) : (a + BitVec.ofNat 32 k).toNat = a.toNat + k ∧ (0x08000000 ≤ a.toNat + k ↔ 0x08000000 ≤ a.toNat) := by
  have hplace := isBackingAddr_iff.mp ha
  unfold maxRomSize at hrom
  rw [BitVec.toNat_add, BitVec.toNat_ofNat]
  omega

/-- Cartridge ROM is what is canonical from its base on. -/
theorem rawResolve_rom_iff {p : Params} {a : Word} {l : Loc} (h : rawResolve p a = .ok l) :
    l.region = .rom ↔ 0x08000000 ≤ a.toNat := by
  obtain ⟨_, hlt, haddr⟩ := rawResolve_ok h
  rw [← haddr, resolvedAddr]
  cases hr : l.region <;> rw [hr] at hlt <;> simp [regionBase, regionSize] at hlt ⊢ <;> omega

/-- The k-th location of a span: it is the byte at the address plus k, in cartridge ROM if the first is. -/
theorem rawSpan_places {p : Params} {a : Word} {n k : Nat} {ls : List Loc} (hn : n ≤ 4) (hrom : p.romSize ≤ maxRomSize)
    (hs : spanOf (rawResolve p) a n = .ok ls) (hk : k < ls.length) :
    resolvedAddr ls[k] = a.toNat + k ∧ (ls[k].region = .rom ↔ 0x08000000 ≤ a.toNat) := by
  obtain ⟨hlen, heach⟩ := spanOf_ok hs
  have hfirst : IsBackingAddr p a.toNat := rawResolve_isOk_iff.mp ⟨_, by simpa using heach 0 (by omega)⟩
  obtain ⟨hadd, hiff⟩ := canonical_add hrom hfirst (k := k) (by omega)
  exact ⟨(rawResolve_ok (heach k hk)).2.2.trans hadd, by rw [rawResolve_rom_iff (heach k hk), hadd, hiff]⟩

/-! ### What a span of unprotected byte writes does -/

theorem storeAll_raw_ds (ls : List Loc) (v : Word) (s : State) : (storeAll storeByteRaw ls v s).ds = s.ds :=
  storeAll_induct (P := fun u => u.ds = s.ds) (fun l _ b u hu => (storeByteRaw_ds l b u).trans hu) v s rfl

/-- Outside cartridge ROM nothing is logged. -/
theorem storeAll_raw_anomalies_other {ls : List Loc} (h : ∀ l ∈ ls, l.region ≠ .rom) (v : Word) (s : State) :
    (storeAll storeByteRaw ls v s).anomalies = s.anomalies :=
  storeAll_induct (P := fun u => u.anomalies = s.anomalies)
    (fun l hl b u hu => by rw [storeByteRaw_anomalies, if_neg (h l hl), hu]) v s rfl

/-- In cartridge ROM every byte is logged, in the order of the writes. -/
theorem storeAll_raw_anomalies_rom {ls : List Loc} (h : ∀ l ∈ ls, l.region = .rom) (v : Word) (s : State) :
    (storeAll storeByteRaw ls v s).anomalies = s.anomalies ++
      ls.mapIdx fun k l => { bus := l.bus, index := l.offset, byte := (v >>> (8 * k)).setWidth 8 } := by
  induction ls generalizing v s with
  | nil => exact (List.append_nil _).symm
  | cons l rest ih =>
    rw [storeAll, ih fun l' hl' => h l' (List.mem_cons_of_mem _ hl'), storeByteRaw_anomalies,
      if_pos (h l List.mem_cons_self), List.mapIdx_cons, List.append_assoc]
    simp only [← BitVec.shiftRight_add, Nat.mul_succ, Nat.add_comm]
    simp

/-- Each byte of a span is in memory after the write, and no other byte changed. -/
theorem storeAll_raw_mem {ls : List Loc} (hnd : (ls.map resolvedAddr).Nodup) (v : Word) {s : State}
    (hwf : Memory.wf s.mem = true) :
    (∀ k, (hk : k < ls.length) →
      Memory.read (storeAll storeByteRaw ls v s).mem (resolvedAddr ls[k]) = (v >>> (8 * k)).setWidth 8) ∧
    ∀ x, x ∉ ls.map resolvedAddr → Memory.read (storeAll storeByteRaw ls v s).mem x = Memory.read s.mem x :=
  storeAll_mem (p := s.params)
    (fun l _ b u hu => ⟨storeByteRaw_mem l b u, (storeByteRaw_frame l b u).params.trans hu⟩) hnd v s rfl hwf

/-! ### The accessors -/

/-- An unprotected byte read goes by its one byte of memory. -/
theorem rawRead_byte_congr {a : Word} {s t : State} (hp : t.params = s.params)
    (hm : Memory.read t.mem a.toNat = Memory.read s.mem a.toNat) : rawRead a .byte t = rawRead a .byte s := by
  rcases rawResolve_cases s.params a with h | ⟨l, h, _⟩
  · rw [rawRead_byte_error h, rawRead_byte_error (hp ▸ h)]
  · rw [rawRead_byte h, rawRead_byte (hp ▸ h), hm]

section
variable {a v : Word} {w : Width} {s t : State}

theorem rawWrite_rawRead (hwf : Memory.wf s.mem = true) (h : rawWrite a w v s = .ok t) :
    rawRead a w t = .ok (lowBytes w v) := by
  have hp := (rawWrite_frame h).params
  obtain ⟨ls, hs, rfl⟩ := rawWrite_eq_ok.mp h
  obtain ⟨hlen, heach⟩ := spanOf_ok hs
  have hmem := (storeAll_raw_mem (spanOf_rawResolve_nodup w.bytes_le hs) v hwf).1
  exact rawRead_lowBytes fun k hk => ⟨ls[k]'(hlen ▸ hk), by rw [hp]; exact heach k _, hmem k _⟩

theorem rawWrite_otherBytes (hwf : Memory.wf s.mem = true) (h : rawWrite a w v s = .ok t) {b : Word}
    (hb : ∀ k, k < w.bytes → b ≠ a + BitVec.ofNat 32 k) : rawRead b .byte t = rawRead b .byte s := by
  have hp := (rawWrite_frame h).params
  obtain ⟨ls, hs, rfl⟩ := rawWrite_eq_ok.mp h
  obtain ⟨hlen, heach⟩ := spanOf_ok hs
  refine rawRead_byte_congr hp ((storeAll_raw_mem (spanOf_rawResolve_nodup w.bytes_le hs) v hwf).2 _ fun hmem => ?_)
  obtain ⟨l, hl, hbl⟩ := List.mem_map.mp hmem
  obtain ⟨k, hk, rfl⟩ := List.getElem_of_mem hl
  rw [(rawResolve_ok (heach k hk)).2.2] at hbl
  exact hb k (hlen ▸ hk) (BitVec.eq_of_toNat_eq hbl.symm)

theorem rawWrite_anomalies (hrom : s.params.romSize ≤ maxRomSize) (h : rawWrite a w v s = .ok t) :
    t.anomalies = s.anomalies ++ (if 0x08000000 ≤ a.toNat then
      (List.range w.bytes).map fun k =>
        { bus := a + BitVec.ofNat 32 k, index := a.toNat + k - 0x08000000, byte := (v >>> (8 * k)).setWidth 8 }
      else []) := by
  obtain ⟨ls, hs, rfl⟩ := rawWrite_eq_ok.mp h
  obtain ⟨hlen, heach⟩ := spanOf_ok hs
  have hplace := fun k (hk : k < ls.length) => rawSpan_places w.bytes_le hrom hs hk
  by_cases ha : 0x08000000 ≤ a.toNat
  · rw [if_pos ha, storeAll_raw_anomalies_rom fun l hl => ?_]
    · congr 1
      refine List.ext_getElem (by simp [hlen]) fun k hk _ => ?_
      rw [List.length_mapIdx] at hk
      obtain ⟨haddr, hregion⟩ := hplace k hk
      rw [resolvedAddr, hregion.mpr ha, regionBase] at haddr
      have hoffset : ls[k].offset = a.toNat + k - 0x08000000 := by omega
      simp [(rawResolve_ok (heach k hk)).1, hoffset]
    · obtain ⟨k, hk, rfl⟩ := List.getElem_of_mem hl
      exact (hplace k hk).2.mpr ha
  · rw [if_neg ha, List.append_nil]
    refine storeAll_raw_anomalies_other (fun l hl => ?_) v s
    obtain ⟨k, hk, rfl⟩ := List.getElem_of_mem hl
    exact mt (hplace k hk).2.mp ha

theorem rawWrite_isOk_iff : (∃ t, rawWrite a w v s = .ok t) ↔
    ∀ k, k < w.bytes → ∃ l, rawResolve s.params (a + BitVec.ofNat 32 k) = .ok l := by
  constructor
  · rintro ⟨t, h⟩ k hk
    obtain ⟨ls, hs, _⟩ := rawWrite_eq_ok.mp h
    obtain ⟨hlen, heach⟩ := spanOf_ok hs
    exact ⟨_, heach k (hlen ▸ hk)⟩
  · intro h
    obtain ⟨ls, hs⟩ := spanOf_isOk h
    exact ⟨_, rawWrite_eq_ok.mpr ⟨ls, hs, rfl⟩⟩

end

/-- Settles O44: a span of unprotected byte writes, its first fault, and the composition of its bytes. -/
theorem rawWriteStoresBytes : Obligations.RawWriteStoresBytes := by
  refine ⟨fun a v w s t hwf hrom h => ⟨rawWrite_rawRead hwf h, ?_, rawWrite_frame h, fun b => rawWrite_otherBytes hwf h,
    rawWrite_anomalies hrom h⟩, fun a v w s k hk hgood hbad =>
      rawAccess_error v (spanOf_error_of_first hk hgood (rawResolve_error_of_not_ok hbad)),
    fun _ _ _ _ => rfl, fun _ _ _ _ => rawWrite_isOk_iff, fun _ _ _ _ => rawRead_eq_ok.trans span_composes_iff⟩
  obtain ⟨ls, _, rfl⟩ := rawWrite_eq_ok.mp h
  exact storeAll_raw_ds ls v s

end Sys2Proof.Proofs
end

section
/-! A protected byte write: to the I/O block, to cartridge ROM, and what any of them leaves unchanged (20_memory.md R62,
R70-R79). -/
namespace Sys2Proof.Proofs
open Sys2Proof.Machine

/-! ### The I/O block -/

/-- What a protected write of `b` does at address `a` of the I/O block, offset `o` (R71-R76). -/
structure IoWritten (a : Word) (o : Nat) (b : Byte) (s t : State) : Prop where
  ds : t.ds = displayAfter o b s.ds
  read : Memory.read t.mem a.toNat = if ioStores s.params o then b else Memory.read s.mem a.toNat
  others : OtherBytesSame a s t
  anomalies : t.anomalies = s.anomalies
  frame : SameProcessor s t

section
variable {a : Word} {o : Nat} (ha : a.toNat = 0x04000000 + o) (ho : o < 0x400)
include ha ho

theorem writeByteP_io (b : Byte) {s : State} (hwf : Memory.wf s.mem = true) :
    ∃ t, writeByteP a b s = .ok t ∧ IoWritten a o b s t := by
  have haddr : resolvedAddr ⟨a, .io, o⟩ = a.toNat := ha.symm
  have hframe := storeByte_frame ⟨a, .io, o⟩ b s
  have hmem : (storeByte ⟨a, .io, o⟩ b s).mem =
      if ioStores s.params o then Memory.write s.mem a.toNat b else s.mem := by
    rw [← haddr]
    change (storeBackingIf _ _ _ _).mem = _
    rw [storeBackingIf]
    split <;> rfl
  refine ⟨_, writeByteP_eq_ok.mpr ⟨_, (resolve_io ha ho).1, rfl⟩, storeByte_ds .., ?_, ?_, storeByte_anomalies .., hframe⟩
  · rw [hmem]
    split
    · exact Memory.read_write_same b hwf
    · rfl
  · refine .of_write (b := b) hframe.params ?_
    rw [hmem]
    split
    · exact .inl rfl
    · exact .inr rfl

theorem rawRead_io (s : State) : rawRead a .byte s = .ok ((Memory.read s.mem a.toNat).setWidth 32) :=
  rawRead_byte (resolve_io ha ho).2

theorem readByteP_io (s : State) : readByteP a s = .ok (loadByte ⟨a, .io, o⟩ s) :=
  readByteP_eq_ok.mpr ⟨_, (resolve_io ha ho).1, rfl⟩

/-- Outside the synthesized bytes a protected read of the I/O block is the backing byte. -/
theorem readByteP_io_backing (hlive : o ∉ [0x004, 0x006, 0x007]) (s : State) :
    readByteP a s = .ok (Memory.read s.mem a.toNat) := by
  rw [readByteP_io ha ho, loadByte_backing fun hl => hlive hl.2, backingByte, resolvedAddr, ha]
  rfl

theorem IoWritten.rawRead {b : Byte} {s t : State} (h : IoWritten a o b s t) :
    rawRead a .byte t = if ioStores s.params o then .ok (b.setWidth 32) else rawRead a .byte s := by
  rw [rawRead_io ha ho, rawRead_io ha ho, h.read]
  split <;> rfl

theorem IoWritten.readByteP (hlive : o ∉ [0x004, 0x006, 0x007]) {b : Byte} {s t : State} (h : IoWritten a o b s t) :
    readByteP a t = if ioStores s.params o then .ok b else readByteP a s := by
  rw [readByteP_io_backing ha ho hlive, readByteP_io_backing ha ho hlive, h.read]
  split <;> rfl

end

/-! ### The display registers -/

/-- A BGnCNT byte at offset `o`: the background it belongs to takes the byte's fields (R72). -/
theorem bgcnt_written {a : Word} {o : Nat} {b : Byte} {s t : State} (h : IoWritten a o b s t) (h1 : 0x008 ≤ o)
    (h2 : o ≤ 0x00F) {n : Fin 4} (hn : bgIndex o = n) :
    t.ds = { s.ds with bg := t.ds.bg } ∧ (∀ k : Fin 4, k ≠ n → t.ds.bg[k] = s.ds.bg[k]) ∧
      t.ds.bg[n] = (if o % 2 = 0 then bgcntLow b else bgcntHigh b) s.ds.bg[n] := by
  have hds := h.ds.trans (displayAfter_bgcnt b s.ds h1 h2)
  rw [hn] at hds
  rw [hds]
  exact ⟨rfl, fun k hk => by rw [updateBg_get, if_neg hk], by rw [updateBg_get, if_pos rfl]⟩

theorem ioStores_display {p : Params} {o : Nat} (h : o = 0x000 ∨ o = 0x001 ∨ (0x008 ≤ o ∧ o ≤ 0x00F)) :
    ioStores p o = p.displayBackingWrite := if_pos h

/-- A write to the low (`c = 8`) or the high (`c = 9`) byte of the register of background `n`. -/
theorem writeByteP_bgcnt (n : Fin 4) {c : Nat} (hc : c = 8 ∨ c = 9) {a : Word}
    (ha : a = BitVec.ofNat 32 (0x04000000 + c) + BitVec.ofNat 32 (2 * n.val)) (b : Byte) {s : State}
    (hwf : Memory.wf s.mem = true) :
    ∃ t, writeByteP a b s = .ok t ∧ t.ds = { s.ds with bg := t.ds.bg } ∧
      (∀ k : Fin 4, k ≠ n → t.ds.bg[k] = s.ds.bg[k]) ∧
      t.ds.bg[n] = (if c % 2 = 0 then bgcntLow b else bgcntHigh b) s.ds.bg[n] ∧
      rawRead a .byte t = (if s.params.displayBackingWrite then .ok (b.setWidth 32) else rawRead a .byte s) ∧
      OtherBytesSame a s t ∧ t.anomalies = s.anomalies ∧ SameProcessor s t := by
  have haddr : a.toNat = 0x04000000 + (c + 2 * n.val) := by
    rw [ha, ← BitVec.ofNat_add, BitVec.toNat_ofNat]
    omega
  have hindex : bgIndex (c + 2 * n.val) = n := by
    apply Fin.ext
    simp only [bgIndex, Fin.ofNat]
    omega
  obtain ⟨t, ht, h⟩ := writeByteP_io haddr (by omega) b hwf
  obtain ⟨hds, hothers, hbg⟩ := bgcnt_written h (by omega) (by omega) hindex
  have hraw := h.rawRead haddr (by omega)
  rw [ioStores_display (by omega)] at hraw
  rw [Nat.add_mul_mod_self_left] at hbg
  exact ⟨t, ht, hds, hothers, hbg, hraw, h.others, h.anomalies, h.frame⟩

/-- Settles O39: each byte is an I/O write, and its fields are those of `displayAfter`. -/
theorem displayRegisterWrites : Obligations.DisplayRegisterWrites := by
  intro b s hwf
  refine ⟨?_, ?_, fun n => ⟨writeByteP_bgcnt n (.inl rfl) rfl b hwf, writeByteP_bgcnt n (.inr rfl) rfl b hwf⟩⟩
  · obtain ⟨t, ht, h⟩ := writeByteP_io (a := 0x04000000) (o := 0x000) rfl (by decide) b hwf
    exact ⟨t, ht, h.ds, h.rawRead rfl (by decide), h.others, h.anomalies, h.frame⟩
  · obtain ⟨t, ht, h⟩ := writeByteP_io (a := 0x04000001) (o := 0x001) rfl (by decide) b hwf
    exact ⟨t, ht, h.ds, h.rawRead rfl (by decide), h.others, h.anomalies, h.frame⟩

/-! ### The wait-state control register -/

/-- The table of R73 at the number the two bits are. -/
theorem waitN_eq_getD (b : Byte) : waitN b = [4, 3, 2, 8].getD (b.extractLsb' 2 2).toNat 0 := by
  revert b
  decide

theorem waitS_eq_ite (b : Byte) : waitS b = if b.getLsbD 4 then 1 else 2 := by
  rw [waitS]
  cases b.getLsbD 4 <;> rfl

/-- Settles O40: the cycle costs are the table's, and the backing byte goes by its parameter. -/
theorem waitcntWrites : Obligations.WaitcntWrites := by
  intro b s hwf
  constructor
  · obtain ⟨t, ht, h⟩ := writeByteP_io (a := 0x04000204) (o := 0x204) rfl (by decide) b hwf
    refine ⟨t, ht, ?_, h.readByteP rfl (by decide) (by decide), h.others, h.anomalies, h.frame⟩
    rw [← waitN_eq_getD, ← waitS_eq_ite]
    exact h.ds
  · obtain ⟨t, ht, h⟩ := writeByteP_io (a := 0x04000205) (o := 0x205) rfl (by decide) b hwf
    exact ⟨t, ht, h.ds, h.readByteP rfl (by decide) (by decide), h.others, h.anomalies, h.frame⟩

/-! ### The live inputs -/

theorem dispstatByte_getLsbD (s : State) (j : Nat) :
    (dispstatByte s).getLsbD j = if j = 0 then s.vblank else if j = 1 then s.hblank else false := by
  simp only [dispstatByte, BitVec.getLsbD_or, BitVec.getLsbD_shiftLeft, BitVec.getLsbD_setWidth, BitVec.getLsbD_ofBool]
  rcases j with _ | _ | j <;> simp

theorem toNat_of_resolve_io {p : Params} {a : Word} {l : Loc} (h : resolve p a = .ok l) (hr : l.region = .io) :
    a.toNat = 0x04000000 + l.offset := by
  rcases resolve_places h with ⟨_, rfl⟩ | ⟨_, _, rfl⟩ | ⟨_, _, rfl⟩ | ⟨hlo, _, rfl⟩ | ⟨_, _, rfl⟩ | ⟨_, _, rfl⟩ |
    ⟨_, _, rfl⟩ | ⟨_, _, _, _, _, rfl⟩ <;> cases hr
  exact (Nat.add_sub_cancel' hlo).symm

/-- Driving the inputs changes no protected read but those of the synthesized bytes (R74, R75). -/
theorem readByteP_driveDisplay {a : Word} (h : a ∉ [0x04000004#32, 0x04000006#32, 0x04000007#32]) (vb hb : Bool)
    (sl : BitVec 16) (s : State) : readByteP a (driveDisplay vb hb sl s) = readByteP a s := by
  unfold readByteP
  rw [driveDisplay_params]
  cases hl : resolve s.params a with
  | error e => rfl
  | ok l =>
    have hother : ¬ (l.region = .io ∧ l.offset ∈ [0x004, 0x006, 0x007]) := by
      rintro ⟨hr, ho⟩
      have ha := toNat_of_resolve_io hl hr
      simp only [List.mem_cons, List.not_mem_nil, or_false] at h ho
      bv_omega
    simp only [loadByte_backing hother, backingByte, driveDisplay_mem]

/-- The synthesized bytes go by the inputs alone. -/
theorem loadByte_live {l : Loc} {s t : State} (hr : l.region = .io) (ho : l.offset ∈ [0x004, 0x006, 0x007])
    (h : SameProcessor s t) : loadByte l t = loadByte l s := by
  simp only [List.mem_cons, List.not_mem_nil, or_false] at ho
  rcases ho with ho | ho | ho <;> simp [loadByte, dispstatByte, hr, ho, h.vblank, h.hblank, h.scanline]

/-- A write to one of the four bytes of DISPSTAT and VCOUNT is stored, and shows at byte 5 alone. -/
theorem writeByteP_live {a : Word} {o : Nat} (ha : a.toNat = 0x04000000 + o) (ho : o ∈ [0x004, 0x005, 0x006, 0x007])
    (b : Byte) {s : State} (hwf : Memory.wf s.mem = true) :
    ∃ t, writeByteP a b s = .ok t ∧ rawRead a .byte t = .ok (b.setWidth 32) ∧
      readByteP a t = (if a = 0x04000005 then .ok b else readByteP a s) ∧ t.ds = s.ds ∧ SameProcessor s t := by
  simp only [List.mem_cons, List.not_mem_nil, or_false] at ho
  have hlt : o < 0x400 := by omega
  obtain ⟨t, ht, h⟩ := writeByteP_io ha hlt b hwf
  have hstores : ioStores s.params o = true := by
    rw [ioStores, if_neg (by omega), if_neg (by omega)]
  have hds : displayAfter o b s.ds = s.ds := by
    rw [displayAfter, if_neg (by omega), if_neg (by omega), if_neg (by omega), if_neg (by omega)]
  refine ⟨t, ht, ?_, ?_, h.ds.trans hds, h.frame⟩
  · rw [h.rawRead ha hlt, if_pos hstores]
  · by_cases h5 : a = 0x04000005
    · have hlive : o ∉ [0x004, 0x006, 0x007] := by
        simp only [List.mem_cons, List.not_mem_nil, or_false]
        bv_omega
      rw [if_pos h5, h.readByteP ha hlt hlive, if_pos hstores]
    · have hlive : o ∈ [0x004, 0x006, 0x007] := by
        simp only [List.mem_cons, List.not_mem_nil, or_false]
        bv_omega
      rw [if_neg h5, readByteP_io ha hlt, readByteP_io ha hlt, loadByte_live rfl hlive h.frame]

/-- Settles O41: the three synthesized bytes, byte 5 beside them, and writes that only the backing store shows. -/
theorem liveInputReads : Obligations.LiveInputReads := by
  refine ⟨fun vb hb sl s => ⟨driveDisplay vb hb sl s, rfl, rfl, rfl, rfl, rfl, rfl, rfl, rfl, rfl, ⟨rfl, rfl, rfl⟩, rfl,
    fun a => ⟨rawRead_congr rfl rfl a .byte, fun h => readByteP_driveDisplay h vb hb sl s⟩⟩, fun s => ⟨?_, ?_, ?_, ?_⟩,
    fun a b s hwf ha => ?_⟩
  · exact ⟨_, readByteP_io (o := 0x004) rfl (by decide) s, dispstatByte_getLsbD s⟩
  · exact ⟨_, rawRead_io (o := 0x005) rfl (by decide) s, readByteP_io_backing (o := 0x005) rfl (by decide) (by decide) s⟩
  · exact readByteP_io (o := 0x006) rfl (by decide) s
  · exact readByteP_io (o := 0x007) rfl (by decide) s
  · simp only [List.mem_cons, List.not_mem_nil, or_false] at ha
    rcases ha with rfl | rfl | rfl | rfl
    · exact writeByteP_live (o := 0x004) rfl (by decide) b hwf
    · exact writeByteP_live (o := 0x005) rfl (by decide) b hwf
    · exact writeByteP_live (o := 0x006) rfl (by decide) b hwf
    · exact writeByteP_live (o := 0x007) rfl (by decide) b hwf

/-! ### Cartridge ROM -/

/-- Settles O42: the byte is stored at its resolved address, which both paths read, and the log takes one entry. -/
theorem romWriteLogged : Obligations.RomWriteLogged := by
  intro a b i s hwf hres
  have hmem : Memory.read (storeRom ⟨a, .rom, i⟩ b s).mem (resolvedAddr ⟨a, .rom, i⟩) = b :=
    Memory.read_write_same b hwf
  have haddr := toNat_resolvedAddr hres
  obtain ⟨m, hm, _⟩ := rawResolve_resolvedAddr hres
  refine ⟨storeRom ⟨a, .rom, i⟩ b s, writeByteP_eq_ok.mpr ⟨_, hres, rfl⟩, readByteP_eq_ok.mpr ⟨_, hres, ?_⟩,
    (rawRead_byte (s := storeRom ⟨a, .rom, i⟩ b s) hm).trans ?_, rfl, rfl,
    .of_write (b := b) rfl (.inl (congrArg (Memory.write s.mem · b) haddr.symm)), storeByte_frame ⟨a, .rom, i⟩ b s⟩
  · exact (loadByte_backing (by simp) _).trans hmem
  · rw [haddr, hmem]

/-! ### What a protected byte write leaves unchanged -/

/-- The display fields that R71-R73 name for offset `o` are the only ones that may differ (R77). -/
def DisplayIsolated (o : Nat) (ds ds' : DisplayStatus) : Prop :=
  (o = 0x000 → { ds' with bgMode := ds.bgMode, objMapping := ds.objMapping } = ds) ∧
  (o = 0x001 → { ds' with bgEnable := ds.bgEnable, objEnable := ds.objEnable } = ds) ∧
  (0x008 ≤ o → o ≤ 0x00F → { ds' with bg := ds.bg } = ds ∧
    (∀ k : Fin 4, k.val ≠ (o - 8) / 2 → ds'.bg[k] = ds.bg[k]) ∧
    ∀ k : Fin 4, if o % 2 = 0 then ds'.bg[k].screenBase = ds.bg[k].screenBase ∧ ds'.bg[k].size = ds.bg[k].size
      else ds'.bg[k].priority = ds.bg[k].priority ∧ ds'.bg[k].charBase = ds.bg[k].charBase ∧
        ds'.bg[k].mosaic = ds.bg[k].mosaic ∧ ds'.bg[k].colorDepth = ds.bg[k].colorDepth) ∧
  (o = 0x204 → { ds' with wsN := ds.wsN, wsS := ds.wsS } = ds) ∧
  (o ∉ [0x000, 0x001, 0x204] → ¬ (0x008 ≤ o ∧ o ≤ 0x00F) → ds' = ds)

theorem DisplayIsolated.refl (o : Nat) (ds : DisplayStatus) : DisplayIsolated o ds ds := by
  refine ⟨fun _ => rfl, fun _ => rfl, fun _ _ => ⟨rfl, fun _ _ => rfl, fun k => ?_⟩, fun _ => rfl, fun _ _ => rfl⟩
  split
  · exact ⟨rfl, rfl⟩
  · exact ⟨rfl, rfl, rfl, rfl⟩

theorem displayAfter_isolated (o : Nat) (b : Byte) (ds : DisplayStatus) :
    DisplayIsolated o ds (displayAfter o b ds) := by
  refine ⟨?_, ?_, fun h1 h2 => ?_, ?_, fun h1 h2 => ?_⟩
  · rintro rfl
    rfl
  · rintro rfl
    rfl
  · rw [displayAfter_bgcnt b ds h1 h2]
    refine ⟨rfl, fun k hk => ?_, fun k => ?_⟩
    · rw [updateBg_get, if_neg]
      rintro rfl
      simp only [bgIndex, Fin.ofNat] at hk
      omega
    · rw [updateBg_get]
      by_cases he : o % 2 = 0 <;> by_cases hk : k = bgIndex o <;> simp [he, hk, bgcntLow, bgcntHigh]
  · rintro rfl
    rfl
  · simp only [List.mem_cons, List.not_mem_nil, or_false, not_or] at h1
    rw [displayAfter, if_neg h1.1, if_neg h1.2.1, if_neg h2, if_neg h1.2.2]

/-- Settles O43: one byte of storage, the log for ROM, the display fields for the I/O block. -/
theorem writeIsolation : Obligations.WriteIsolation := by
  intro a b s t h
  obtain ⟨l, hl, rfl⟩ := writeByteP_eq_ok.mp h
  have hframe := storeByte_frame l b s
  have hds := storeByte_ds l b s
  refine ⟨l, hl, hframe, .of_write (b := b) hframe.params ?_, fun hr => ?_, fun hr => ?_, ?_⟩
  · rw [toNat_resolvedAddr hl]
    exact (storeByte_mem l b s).imp_right fun hm => hm.2.2
  · rw [storeByte_anomalies, if_neg hr]
  · rw [hds, if_neg hr]
  · change DisplayIsolated l.offset s.ds (storeByte l b s).ds
    rw [hds]
    split
    · exact displayAfter_isolated l.offset b s.ds
    · exact .refl l.offset s.ds

end Sys2Proof.Proofs
end

section
/-! What a mask test says of a word, field by field: the form in which the opcode table, the class predicates and the
encoder are compared (30_encoding.md R103, R106, R119). -/
namespace Sys2Proof.Proofs
open Sys2Proof.Machine

section
variable {w m p : Word} (h : w &&& m = p)
include h

theorem bit_of_match {j : Nat} (hm : m.getLsbD j = true) : w.getLsbD j = p.getLsbD j := by
  rw [← h, BitVec.getLsbD_and, hm, Bool.and_true]

theorem extract_and_of_match (lo n : Nat) : w.extractLsb' lo n &&& m.extractLsb' lo n = p.extractLsb' lo n := by
  rw [← BitVec.extractLsb'_and, h]

theorem extract_of_match {lo n : Nat} (hm : m.extractLsb' lo n = BitVec.allOnes n) :
    w.extractLsb' lo n = p.extractLsb' lo n := by
  rw [← extract_and_of_match h lo n, hm, BitVec.and_allOnes]

/-- A field is not `k` when the match differs from `k` in some masked bit. -/
theorem extract_beq_false {lo n : Nat} {k : BitVec n} (hne : k &&& m.extractLsb' lo n ≠ p.extractLsb' lo n) :
    (w.extractLsb' lo n == k) = false := by
  rw [beq_eq_false_iff_ne]
  rintro rfl
  exact hne (extract_and_of_match h lo n)

/-- A mask test implies every test with fewer mask bits. -/
theorem match_sub {M P : Word} (hM : m &&& M = M := by decide) (hP : p &&& M = P := by decide) : w &&& M = P := by
  rw [← hM, ← hP, ← h, BitVec.and_assoc]

/-- Two mask tests are one test with the bits of both. -/
theorem match_or {m' p' M P : Word} (h' : w &&& m' = p') (hM : m ||| m' = M := by decide)
    (hP : p ||| p' = P := by decide) : w &&& M = P := by
  rw [← hM, ← hP, ← h, ← h', BitVec.and_or_distrib_left]

end

/-- A field test is the mask test of the field's bits. -/
theorem match_extract {w : Word} {lo n : Nat} {k : BitVec n} (h : w.extractLsb' lo n = k) :
    w &&& put (BitVec.allOnes n) lo = put k lo := by
  apply BitVec.eq_of_getLsbD_eq
  intro j hj
  subst h
  rw [BitVec.getLsbD_and, put_getLsbD, put_getLsbD, BitVec.getLsbD_allOnes, BitVec.getLsbD_extractLsb']
  by_cases hlo : lo ≤ j
  · rw [show lo + (j - lo) = j by omega]
    simp [hj, hlo, Bool.and_comm]
  · simp [hlo]

theorem extract_getLsbD {a : Nat} {x : BitVec a} {lo n j : Nat} (h : j < n) :
    (x.extractLsb' lo n).getLsbD j = x.getLsbD (lo + j) := by
  simp [h]

theorem extract_extract {a : Nat} {x : BitVec a} {lo n j k : Nat} (h : j + k ≤ n) :
    (x.extractLsb' lo n).extractLsb' j k = x.extractLsb' (lo + j) k := by
  apply BitVec.eq_of_getLsbD_eq
  intro i hi
  rw [extract_getLsbD hi, extract_getLsbD hi, extract_getLsbD (by omega), Nat.add_assoc]

/-- A field test is a test of its lowest bit and one of the field above it. -/
theorem extract_succ_beq (w : Word) (lo n : Nat) (k : BitVec (n + 1)) :
    (w.extractLsb' lo (n + 1) == k) =
      ((w.getLsbD lo == k.getLsbD 0) && (w.extractLsb' (lo + 1) n == k.extractLsb' 1 n)) := by
  rw [Bool.eq_iff_iff, Bool.and_eq_true, beq_iff_eq, beq_iff_eq, beq_iff_eq]
  constructor
  · rintro rfl
    exact ⟨(extract_getLsbD n.succ_pos).symm, (extract_extract (by omega)).symm⟩
  · rintro ⟨h0, hs⟩
    refine BitVec.eq_of_getLsbD_eq fun j hj => ?_
    rw [extract_getLsbD hj]
    cases j with
    | zero => exact h0
    | succ j =>
      have hb := congrArg (·.getLsbD j) hs
      simp only [extract_getLsbD (show j < n by omega)] at hb
      rw [show lo + (j + 1) = lo + 1 + j by omega, hb, show 1 + j = j + 1 by omega]

theorem match_bit {w : Word} {j : Nat} {b : Bool} (h : w.getLsbD j = b) : w &&& putBit true j = putBit b j := by
  apply BitVec.eq_of_getLsbD_eq
  intro i hi
  subst h
  rw [BitVec.getLsbD_and, putBit_getLsbD, putBit_getLsbD]
  by_cases hij : i = j
  · simp [hij, Bool.and_comm]
  · simp [hij]

theorem match_or_bit {w m p : Word} (h : w &&& m = p) {j : Nat} {b : Bool} (hb : w.getLsbD j = b) :
    w &&& (m ||| putBit true j) = p ||| putBit b j :=
  match_or h (match_bit hb) rfl rfl

end Sys2Proof.Proofs
end

section
/-! The Wide classes: the predicates of R103 as mask tests, and the decision list that answers them
(30_encoding.md R103, R104). -/
namespace Sys2Proof.Proofs
open Sys2Proof.Machine

/-- The bits that the class predicate of `UNDEFINED_000` leaves to the instruction. -/
def undef000Bits (w : Word) : Undef000Bits where
  hi := w.extractLsb' 8 17
  sh := w.extractLsb' 5 2
  lo := w.extractLsb' 0 4

/-- The predicates of R103 as tests of the word and of the fields it carries. -/
def ClassTest (w : Word) : WideClass → Prop
  | .branchExchange => w &&& 0x0FFFFFF0 = 0x012FFF10
  | .multiply => w &&& 0x0FC000F0 = 0x00000090
  | .multiplyLong => w &&& 0x0F8000F0 = 0x00800090
  | .singleDataSwap => w &&& 0x0FB00FF0 = 0x01000090
  | .halfwordRegOffset => w &&& 0x0E400F90 = 0x00000090 ∧ w.extractLsb' 5 2 ≠ 0#2
  | .halfwordImmOffset => w &&& 0x0E400090 = 0x00400090 ∧ w.extractLsb' 5 2 ≠ 0#2
  | .undefined => w &&& 0x0E000010 = 0x06000010 ∨ w &&& 0x0E000090 = 0x00000090 ∧ (undef000Bits w).wf = true
  | .dataProcessing => w &&& 0x0C000000 = 0 ∧ (dpFields w).wf = true ∧ w.extractLsb' 4 24 ≠ 0x12FFF1#24
  | .singleDataTransfer => w &&& 0x0C000000 = 0x04000000 ∧ (transferFields w).wf = true
  | .blockDataTransfer => w &&& 0x0E000000 = 0x08000000
  | .branch => w &&& 0x0E000000 = 0x0A000000
  | .coprocDataTransfer => w &&& 0x0E000000 = 0x0C000000
  | .coprocDataOperation => w &&& 0x0F000010 = 0x0E000000
  | .coprocRegisterTransfer => w &&& 0x0F000010 = 0x0E000010
  | .softwareInterrupt => w &&& 0x0F000000 = 0x0F000000

theorem dpFields_wf (w : Word) : (dpFields w).wf = !(!w.getLsbD 25 && w.getLsbD 7 && w.getLsbD 4) := by
  simp [DpFields.wf, dpFields, Bool.not_and, Bool.and_assoc]

theorem transferFields_wf (w : Word) : (transferFields w).wf = !(w.getLsbD 25 && w.getLsbD 4) := by
  simp [TransferFields.wf, transferFields]

/-- With bits 7 and 4 set in the `000` space, the fields are those of `Undefined` where R104 answers it. -/
theorem undef000Bits_wf (w : Word) (h : w &&& 0x0E000090 = 0x00000090) :
    (undef000Bits w).wf = true ↔ classifyWide000 w = .undefined := by
  have h25 : w.extractLsb' 25 3 = 0#3 := extract_of_match h (by decide)
  have h22 : (w.extractLsb' 22 6 == 0#6) = (!w.getLsbD 22 && !w.getLsbD 23 && !w.getLsbD 24) := by
    simp [extract_succ_beq w 22, extract_succ_beq w 23, extract_succ_beq w 24, h25, -beq_iff_eq, Bool.and_assoc]
  have h231 : (w.extractLsb' 23 5 == 1#5) = (w.getLsbD 23 && !w.getLsbD 24) := by
    simp [extract_succ_beq w 23, extract_succ_beq w 24, h25, -beq_iff_eq]
  have h232 : (w.extractLsb' 23 5 == 2#5) = (!w.getLsbD 23 && w.getLsbD 24) := by
    simp [extract_succ_beq w 23, extract_succ_beq w 24, h25, -beq_iff_eq]
  simp (disch := decide) only [Undef000Bits.wf, undef000Bits, classifyWide000, h22, h231, h232, extract_getLsbD,
    extract_extract, Nat.reduceAdd]
  by_cases hsh : w.extractLsb' 5 2 = 0#2
  · cases w.getLsbD 22 <;> cases w.getLsbD 23 <;> cases w.getLsbD 24 <;> simp [hsh, imp_iff_not_or]
  · cases w.getLsbD 22 <;> simp [hsh]

section
variable {w : Word}

/-! ### The `000` space with bits 7 and 4 set -/

theorem match_extension (h25 : w.extractLsb' 25 3 = 0#3) (h7 : w.getLsbD 7 = true) (h4 : w.getLsbD 4 = true) :
    w &&& 0x0E000090 = 0x00000090 :=
  match_or (match_or (match_extract h25) (match_bit h7) rfl rfl) (match_bit h4)

theorem classifyWide_extension (h : w &&& 0x0E000090 = 0x00000090) : classifyWide w = classifyWide000 w := by
  simp (disch := decide) [classifyWide, extract_of_match h, bit_of_match h, extract_beq_false h,
    -BitVec.getLsbD_eq_getElem, -beq_iff_eq]

/-- Where R104 enters this part of the decision list, its tests are the predicates of R103. -/
theorem classifyWide000_eq (h : w &&& 0x0E000090 = 0x00000090) : classifyWide000 w =
    if inWideClass w .multiply then .multiply
    else if inWideClass w .multiplyLong then .multiplyLong
    else if inWideClass w .singleDataSwap then .singleDataSwap
    else if inWideClass w .halfwordImmOffset then .halfwordImmOffset
    else if inWideClass w .halfwordRegOffset then .halfwordRegOffset
    else .undefined := by
  have b4 : w.getLsbD 4 = true := bit_of_match h (by decide)
  have b7 : w.getLsbD 7 = true := bit_of_match h (by decide)
  have h25 : w.extractLsb' 25 3 = 0#3 := extract_of_match h (by decide)
  have h44 : (w.extractLsb' 4 4 == 0b1001#4) = (w.extractLsb' 5 2 == 0#2) := by
    simp [extract_succ_beq, b4, b7, -beq_iff_eq, -BitVec.getLsbD_eq_getElem]
  have h48 : (w.extractLsb' 4 8 == 0b00001001#8) = (w.extractLsb' 5 2 == 0#2 && w.extractLsb' 8 4 == 0#4) := by
    simp [extract_succ_beq, b4, b7, -beq_iff_eq, -BitVec.getLsbD_eq_getElem, Bool.and_assoc]
  simp only [inWideClass, classifyWide000, h44, h48, b4, b7, h25, Bool.and_comm, Bool.and_left_comm, Bool.true_and,
    beq_self_eq_true]
end

/-! ### The predicates of R103 and the decision list of R104 -/

theorem classTest_of_inWideClass {w : Word} {c : WideClass} (h : inWideClass w c = true) : ClassTest w c := by
  cases c <;> simp only [inWideClass, Bool.and_eq_true, Bool.or_eq_true, beq_iff_eq, bne_iff_ne, Bool.not_eq_true'] at h
  case branchExchange => exact match_extract h
  case multiply => exact match_or (match_extract h.1) (match_extract h.2)
  case multiplyLong => exact match_or (match_extract h.1) (match_extract h.2)
  case singleDataSwap =>
    obtain ⟨⟨h23, h20⟩, h4⟩ := h
    exact match_or (match_or (match_extract h23) (match_extract h20) rfl rfl) (match_extract h4)
  case halfwordRegOffset =>
    obtain ⟨⟨⟨⟨⟨h25, h22⟩, h8⟩, h7⟩, h4⟩, hsh⟩ := h
    exact ⟨match_or (match_or (match_extension h25 h7 h4) (match_bit h22) rfl rfl) (match_extract h8), hsh⟩
  case halfwordImmOffset =>
    obtain ⟨⟨⟨⟨h25, h22⟩, h7⟩, h4⟩, hsh⟩ := h
    exact ⟨match_or (match_extension h25 h7 h4) (match_bit h22), hsh⟩
  case undefined =>
    refine h.imp (fun ⟨h25, h4⟩ => match_or (match_extract h25) (match_bit h4)) fun hx => ?_
    obtain ⟨⟨⟨⟨⟨⟨⟨h25, h7⟩, h4⟩, hmul⟩, hmull⟩, hswp⟩, hreg⟩, himm⟩ := hx
    have hm := match_extension h25 h7 h4
    refine ⟨hm, (undef000Bits_wf w hm).mpr ?_⟩
    rw [classifyWide000_eq hm]
    simp only [inWideClass, hmul, hmull, hswp, hreg, himm]
    rfl
  case dataProcessing =>
    obtain ⟨⟨h26, hbx⟩, hx⟩ := h
    exact ⟨match_extract h26, by rw [dpFields_wf, hx]; rfl, by simpa using hbx⟩
  case singleDataTransfer =>
    obtain ⟨h26, hx⟩ := h
    exact ⟨match_extract h26, by rw [transferFields_wf, hx]; rfl⟩
  case blockDataTransfer => exact match_extract h
  case branch => exact match_extract h
  case coprocDataTransfer => exact match_extract h
  case coprocDataOperation => exact match_or (match_extract h.1) (match_bit h.2)
  case coprocRegisterTransfer => exact match_or (match_extract h.1) (match_bit h.2)
  case softwareInterrupt => exact match_extract h

section
variable {w : Word}

/-- The test by which the decision list enters the `000` space is the side condition of the data-processing fields. -/
theorem extension_test (h : w.extractLsb' 26 2 = 0#2) :
    (w.extractLsb' 25 3 == 0#3 && w.getLsbD 7 && w.getLsbD 4) = !(dpFields w).wf := by
  rw [extract_succ_beq, h, dpFields_wf, Bool.not_not]
  simp

theorem undefined011_test (h : w.extractLsb' 26 2 = 1#2) :
    (w.extractLsb' 25 3 == 3#3 && w.getLsbD 4) = !(transferFields w).wf := by
  rw [extract_succ_beq, h, transferFields_wf, Bool.not_not]
  simp

/-- A class's mask test settles each test of the decision list down to that class's entry. -/
theorem classifyWide_of_classTest {c : WideClass} (h : ClassTest w c) : classifyWide w = c := by
  cases c <;> simp only [ClassTest] at h
  case branchExchange =>
    simp (disch := decide) [classifyWide, extract_of_match h]
  case multiply =>
    rw [classifyWide_extension (match_sub h)]
    simp (disch := decide) [classifyWide000, extract_of_match h]
  case multiplyLong | singleDataSwap =>
    rw [classifyWide_extension (match_sub h)]
    simp (disch := decide) [classifyWide000, extract_of_match h, extract_beq_false h, -beq_iff_eq]
  case halfwordRegOffset =>
    obtain ⟨h, hsh⟩ := h
    rw [classifyWide_extension (match_sub h)]
    simp (disch := decide) [classifyWide000, extract_of_match h, bit_of_match h, hsh, -BitVec.getLsbD_eq_getElem]
  case halfwordImmOffset =>
    obtain ⟨h, hsh⟩ := h
    rw [classifyWide_extension (match_sub h)]
    simp (disch := decide) [classifyWide000, bit_of_match h, hsh, -BitVec.getLsbD_eq_getElem]
  case undefined =>
    rcases h with h | ⟨h, hwf⟩
    · simp (disch := decide) [classifyWide, extract_of_match h, bit_of_match h, extract_beq_false h, -beq_iff_eq,
        -BitVec.getLsbD_eq_getElem]
    · rw [classifyWide_extension h, ← undef000Bits_wf w h, hwf]
  case dataProcessing =>
    obtain ⟨h, hwf, hbx⟩ := h
    have h26 : w.extractLsb' 26 2 = 0#2 := extract_of_match h (by decide)
    simp only [classifyWide, extension_test h26, beq_eq_false_iff_ne.mpr hbx, hwf, h26]
    rfl
  case singleDataTransfer =>
    obtain ⟨h, hwf⟩ := h
    have h26 : w.extractLsb' 26 2 = 1#2 := extract_of_match h (by decide)
    simp (disch := decide) only [classifyWide, undefined011_test h26, extract_beq_false h, hwf, h26]
    rfl
  case blockDataTransfer | branch | coprocDataTransfer | softwareInterrupt =>
    simp (disch := decide) [classifyWide, extract_of_match h, extract_beq_false h, -beq_iff_eq]
  case coprocDataOperation | coprocRegisterTransfer =>
    simp (disch := decide) [classifyWide, extract_of_match h, bit_of_match h, extract_beq_false h, -beq_iff_eq,
      -BitVec.getLsbD_eq_getElem]

theorem inWideClass_dataProcessing : inWideClass w .dataProcessing =
    (w.extractLsb' 26 2 == 0#2 && !(w.extractLsb' 4 24 == 0x12FFF1#24) && (dpFields w).wf) := by
  rw [dpFields_wf]
  rfl

theorem inWideClass_singleDataTransfer : inWideClass w .singleDataTransfer =
    (w.extractLsb' 26 2 == 1#2 && (transferFields w).wf) := by
  rw [transferFields_wf]
  rfl

theorem inWideClass_undefined : inWideClass w .undefined =
    ((w.extractLsb' 25 3 == 3#3 && w.getLsbD 4)
      || (w.extractLsb' 25 3 == 0#3 && w.getLsbD 7 && w.getLsbD 4 && !inWideClass w .multiply
        && !inWideClass w .multiplyLong && !inWideClass w .singleDataSwap && !inWideClass w .halfwordRegOffset
        && !inWideClass w .halfwordImmOffset)) := rfl

/-- The tests that the last entry of the decision list has passed over leave one value of the top four bits. -/
theorem softwareInterrupt_of_others (h26 : w.extractLsb' 26 2 ≠ 0#2) (h26' : w.extractLsb' 26 2 ≠ 1#2)
    (h4 : w.extractLsb' 25 3 ≠ 4#3) (h5 : w.extractLsb' 25 3 ≠ 5#3) (h6 : w.extractLsb' 25 3 ≠ 6#3)
    (h14 : w.extractLsb' 24 4 ≠ 14#4) : w.extractLsb' 24 4 = 15#4 := by
  rw [show w.extractLsb' 26 2 = (w.extractLsb' 24 4).extractLsb' 2 2 by rw [extract_extract (by decide)]] at h26 h26'
  rw [show w.extractLsb' 25 3 = (w.extractLsb' 24 4).extractLsb' 1 3 by rw [extract_extract (by decide)]] at h4 h5 h6
  have top (x : BitVec 4) : x.extractLsb' 2 2 = 0#2 ∨ x.extractLsb' 2 2 = 1#2 ∨ x.extractLsb' 1 3 = 4#3 ∨
      x.extractLsb' 1 3 = 5#3 ∨ x.extractLsb' 1 3 = 6#3 ∨ x = 14#4 ∨ x = 15#4 := by
    revert x
    decide
  simpa [h26, h26', h4, h5, h6, h14] using top (w.extractLsb' 24 4)

/-- The entry at which the decision list ends, with the tests it has passed over, is the class's predicate. -/
theorem inWideClass_classifyWide (w : Word) : inWideClass w (classifyWide w) = true := by
  unfold classifyWide
  split
  case isTrue h => exact h
  case isFalse hbx =>
  split
  case isTrue hx =>
    simp only [Bool.and_eq_true, beq_iff_eq] at hx
    obtain ⟨⟨h25, h7⟩, h4⟩ := hx
    rw [classifyWide000_eq (match_extension h25 h7 h4)]
    split_ifs
    any_goals assumption
    simp [inWideClass_undefined, *]
  case isFalse hx =>
  split
  case isTrue h26 =>
    rw [extension_test (beq_iff_eq.mp h26)] at hx
    simp_all [inWideClass_dataProcessing]
  case isFalse h26 =>
  split
  case isTrue h => rw [inWideClass, h]; rfl
  case isFalse h011 =>
  split
  case isTrue h26' =>
    rw [undefined011_test (beq_iff_eq.mp h26')] at h011
    simp_all [inWideClass_singleDataTransfer]
  case isFalse h26' =>
  split
  case isTrue h => exact h
  case isFalse h4 =>
  split
  case isTrue h => exact h
  case isFalse h5 =>
  split
  case isTrue h => exact h
  case isFalse h6 =>
  split
  case isTrue h => exact h
  case isFalse hcdo =>
  split
  case isTrue h => simp_all [inWideClass]
  case isFalse h14 =>
    simp only [beq_iff_eq] at *
    exact beq_iff_eq.mpr (softwareInterrupt_of_others h26 h26' h4 h5 h6 h14)
end

/-- The decision list of R104 answers the one class whose predicate of R103 the word meets. -/
theorem inWideClass_iff (w : Word) (c : WideClass) : inWideClass w c = true ↔ classifyWide w = c :=
  ⟨fun h => classifyWide_of_classTest (classTest_of_inWideClass h), fun h => h ▸ inWideClass_classifyWide w⟩

theorem classTest_classifyWide (w : Word) : ClassTest w (classifyWide w) :=
  classTest_of_inWideClass (inWideClass_classifyWide w)

section
variable {w v : Word} (h : w.extractLsb' 0 28 = v.extractLsb' 0 28)
include h

theorem extract_congr_low (lo n : Nat) (hn : lo + n ≤ 28) : w.extractLsb' lo n = v.extractLsb' lo n := by
  have e (x : Word) : x.extractLsb' lo n = (x.extractLsb' 0 28).extractLsb' lo n := by
    rw [extract_extract hn, Nat.zero_add]
  rw [e w, e v, h]

theorem bit_congr_low (j : Nat) (hj : j < 28) : w.getLsbD j = v.getLsbD j := by
  rw [← Nat.zero_add j, ← extract_getLsbD hj, h, extract_getLsbD hj]

/-- No predicate of R103 reads bits 31:28. -/
theorem inWideClass_congr_low (c : WideClass) : inWideClass w c = inWideClass v c := by
  cases c <;> simp (disch := decide) only [inWideClass, extract_congr_low h, bit_congr_low h]
end

/-- Settles O2: the decision list answers the one class whose predicate holds. -/
theorem wideClassesPartition : Obligations.WideClassesPartition :=
  ⟨fun w => ⟨classifyWide w, inWideClass_classifyWide w⟩,
    fun w c d hc hd => ((inWideClass_iff w c).mp hc).symm.trans ((inWideClass_iff w d).mp hd),
    inWideClass_iff, fun _ _ h c => inWideClass_congr_low h c⟩

end Sys2Proof.Proofs
end

section
/-! No bit of a Wide word is dropped by the decoder, and the word has its instruction's row (30_encoding.md R101,
R106, R107, R119). -/
namespace Sys2Proof.Proofs
open Sys2Proof.Machine

/-- The encoder writes the mask and match of the instruction's own row (30_encoding.md R119). -/
theorem encode_row (i : Instr) : encode i &&& i.row.mask = i.row.pattern := by
  open Laws.RowBits in
  cases i
  exacts [b _ _, bl _ _, bx _ _, bxR15 _, mul _ _, mla _ _, and _ _, eor _ _, sub _ _, rsb _ _, add _ _, adc _ _,
    sbc _ _, rsc _ _, tst _ _, teq _ _, cmp _ _, cmn _ _, orr _ _, mov _ _, bic _ _, mvn _ _, mrs _ _ _,
    msrReg _ _ _ _, msrImm _ _ _ _, umull _ _, umlal _ _, smull _ _, smlal _ _, swp _ _, swpb _ _, strhReg _ _,
    strhImm _ _, ldrhReg _ _, ldrhImm _ _, ldrsbReg _ _, ldrsbImm _ _, ldrshReg _ _, ldrshImm _ _, hdtL0Sh10Reg _ _,
    hdtL0Sh10Imm _ _, hdtL0Sh11Reg _ _, hdtL0Sh11Imm _ _, undefined000 _ _, undefined011 _ _, str _ _, ldr _ _,
    strb _ _, ldrb _ _, stm _ _, ldm _ _, stc _ _, ldc _ _, cdp _ _, mcr _ _, mrc _ _, swi _ _, tLsl _, tLsr _,
    tAsr _, tAddReg _, tSubReg _, tAddImm3 _, tSubImm3 _, tMovImm _, tCmpImm _, tAddImm8 _, tSubImm8 _, tAndAlu _,
    tEorAlu _, tLslAlu _, tLsrAlu _, tAsrAlu _, tAdcAlu _, tSbcAlu _, tRorAlu _, tTstAlu _, tNegAlu _, tCmpAlu _,
    tCmnAlu _, tOrrAlu _, tMulAlu _, tBicAlu _, tMvnAlu _, tAddHi _, tCmpHi _, tMovHi _, tBx _, tLdrPc _, tStrReg _,
    tStrbReg _, tLdrReg _, tLdrbReg _, tStrhReg _, tLdsbReg _, tLdrhReg _, tLdshReg _, tStrImm _, tLdrImm _,
    tStrbImm _, tLdrbImm _, tStrhImm _, tLdrhImm _, tStrSp _, tLdrSp _, tAddPc _, tAddSp _, tAddSpImm _, tPush _,
    tPop _, tStmia _, tLdmia _, tBeq _, tBne _, tBcs _, tBcc _, tBmi _, tBpl _, tBvs _, tBvc _, tBhi _, tBls _,
    tBge _, tBlt _, tBgt _, tBle _, tSwiThumb _, tBThumb _, tBlPrefix _, tBlSuffix _, narrowUndefB1 _,
    narrowUndefB2 _, narrowUndefB3 _, narrowUndefB6 _, narrowUndefB7 _, narrowUndefB8 _, narrowUndefB9 _,
    narrowUndefBa _, narrowUndefBb _, narrowUndefBe _, narrowUndefBf _, narrowUndefDe _, narrowUndefE8Ef _]

/-! ### Fields taken from a word and put back -/

theorem put_extract (w : Word) (lo n : Nat) : put (w.extractLsb' lo n) lo = w &&& put (BitVec.allOnes n) lo :=
  (match_extract rfl).symm

theorem putBit_bit (w : Word) (j : Nat) : putBit (w.getLsbD j) j = w &&& putBit true j :=
  (match_bit rfl).symm

theorem bits_condOf (w : Word) : (condOf w).bits = w &&& 0xF0000000 := by
  rw [Cond.bits, condOf, Cond.code_ofCode, put_extract]
  rfl

theorem bits_dpFields (w : Word) : (dpFields w).bits = w &&& 0x021FFFFF := by
  simp only [DpFields.bits, dpFields, put_extract, putBit_bit, ← BitVec.and_or_distrib_left]
  rfl

theorem bits_mulFields (w : Word) : (mulFields w).bits = w &&& 0x001FFF0F := by
  simp only [MulFields.bits, mulFields, put_extract, putBit_bit, ← BitVec.and_or_distrib_left]
  rfl

theorem bits_mulLongFields (w : Word) : (mulLongFields w).bits = w &&& 0x001FFF0F := by
  simp only [MulLongFields.bits, mulLongFields, put_extract, putBit_bit, ← BitVec.and_or_distrib_left]
  rfl

theorem bits_swapFields (w : Word) : (swapFields w).bits = w &&& 0x000FF00F := by
  simp only [SwapFields.bits, swapFields, put_extract, ← BitVec.and_or_distrib_left]
  rfl

theorem bits_halfRegFields (w : Word) : (halfRegFields w).bits = w &&& 0x01AFF00F := by
  simp only [HalfRegFields.bits, halfRegFields, put_extract, putBit_bit, ← BitVec.and_or_distrib_left]
  rfl

theorem bits_transferFields (w : Word) : (transferFields w).bits = w &&& 0x03AFFFFF := by
  simp only [TransferFields.bits, transferFields, put_extract, putBit_bit, ← BitVec.and_or_distrib_left]
  rfl

theorem bits_blockFields (w : Word) : (blockFields w).bits = w &&& 0x01EFFFFF := by
  simp only [BlockFields.bits, blockFields, put_extract, putBit_bit, ← BitVec.and_or_distrib_left]
  rfl

theorem bits_coprocTransferFields (w : Word) : (coprocTransferFields w).bits = w &&& 0x01EFFFFF := by
  simp only [CoprocTransferFields.bits, coprocTransferFields, put_extract, putBit_bit, ← BitVec.and_or_distrib_left]
  rfl

theorem bits_coprocOpFields (w : Word) : (coprocOpFields w).bits = w &&& 0x00FFFFEF := by
  simp only [CoprocOpFields.bits, coprocOpFields, put_extract, ← BitVec.and_or_distrib_left]
  rfl

theorem bits_coprocRegFields (w : Word) : (coprocRegFields w).bits = w &&& 0x00EFFFEF := by
  simp only [CoprocRegFields.bits, coprocRegFields, put_extract, ← BitVec.and_or_distrib_left]
  rfl

theorem bits_halfImmFields (w : Word) : (halfImmFields w).bits = w &&& 0x01AFFF0F := by
  have h4 : (w.extractLsb' 8 4 ++ w.extractLsb' 0 4).extractLsb' 4 4 = w.extractLsb' 8 4 :=
    BitVec.extractLsb'_append_eq_left
  have h0 : (w.extractLsb' 8 4 ++ w.extractLsb' 0 4).extractLsb' 0 4 = w.extractLsb' 0 4 :=
    BitVec.extractLsb'_append_eq_right
  simp only [HalfImmFields.bits, halfImmFields, h4, h0, put_extract, putBit_bit, ← BitVec.and_or_distrib_left]
  rfl

theorem bits_undef000Bits (w : Word) : (undef000Bits w).bits = w &&& 0x01FFFF6F := by
  simp only [Undef000Bits.bits, undef000Bits, put_extract, ← BitVec.and_or_distrib_left]
  rfl

/-- The bits that the row of `UNDEFINED_011` leaves to the instruction. -/
def undef011Bits (w : Word) : Undef011Bits where
  hi := w.extractLsb' 5 20
  lo := w.extractLsb' 0 4

theorem bits_undef011Bits (w : Word) : (undef011Bits w).bits = w &&& 0x01FFFFEF := by
  simp only [Undef011Bits.bits, undef011Bits, put_extract, ← BitVec.and_or_distrib_left]
  rfl

/-- A word is put together from its row's match, its condition and the rest of its bits. -/
theorem word_of_match {w m p x fm P : Word} (h : w &&& m = p) (hx : x = w &&& fm) (hP : p = P := by decide)
    (hm : m ||| 0xF0000000 ||| fm = BitVec.allOnes 32 := by decide) : P ||| (condOf w).bits ||| x = w := by
  rw [← hP, bits_condOf, hx, ← h, ← BitVec.and_or_distrib_left, ← BitVec.and_or_distrib_left, hm, BitVec.and_allOnes]

/-! ### Each decoder of R106 keeps every bit of the words of its class -/

section
variable {w : Word}

theorem encode_decodeBranch (h : w &&& 0x0E000000 = 0x0A000000) : encode (decodeBranch w) = w := by
  unfold decodeBranch
  split <;> rename_i h24 <;> exact word_of_match (match_or_bit h h24) (put_extract w 0 24)

theorem encode_decodeBranchExchange (h : w &&& 0x0FFFFFF0 = 0x012FFF10) : encode (decodeBranchExchange w) = w := by
  unfold decodeBranchExchange
  split
  · rename_i hrm
    have hw := word_of_match (match_or h (match_extract (beq_iff_eq.mp hrm)) rfl rfl) (BitVec.and_zero (x := w)).symm
      (P := 0x012FFF1F) rfl rfl
    rwa [BitVec.or_zero] at hw
  · exact word_of_match h (put_extract w 0 4)

theorem encode_decodeMultiply (h : w &&& 0x0FC000F0 = 0x00000090) : encode (decodeMultiply w) = w := by
  unfold decodeMultiply
  split <;> rename_i h21 <;> exact word_of_match (match_or_bit h h21) (bits_mulFields w)

theorem encode_decodeDataProcessing (h : w &&& 0x0C000000 = 0) : encode (decodeDataProcessing w) = w := by
  unfold decodeDataProcessing
  split <;> rename_i h24 h23 h22 h21 <;>
    exact word_of_match (match_or_bit (match_or_bit (match_or_bit (match_or_bit h h24) h23) h22) h21) (bits_dpFields w)

theorem encode_decodeMultiplyLong (h : w &&& 0x0F8000F0 = 0x00800090) : encode (decodeMultiplyLong w) = w := by
  unfold decodeMultiplyLong
  split <;> rename_i h22 h21 <;> exact word_of_match (match_or_bit (match_or_bit h h22) h21) (bits_mulLongFields w)

theorem encode_decodeSwap (h : w &&& 0x0FB00FF0 = 0x01000090) : encode (decodeSwap w) = w := by
  unfold decodeSwap
  split <;> rename_i h22 <;> exact word_of_match (match_or_bit h h22) (bits_swapFields w)

/-- In the halfword classes S and H are not both 0, so `S = 0` leaves `H = 1` (30_encoding.md R103). -/
theorem bit5_of_halfword (hsh : w.extractLsb' 5 2 ≠ 0#2) (h6 : w.getLsbD 6 = false) : w.getLsbD 5 = true := by
  by_contra h5
  refine hsh (BitVec.eq_of_getLsbD_eq fun j hj => ?_)
  rw [extract_getLsbD hj, BitVec.getLsbD_zero]
  rcases (by omega : j = 0 ∨ j = 1) with rfl | rfl
  · simpa using h5
  · exact h6

theorem encode_decodeHalfReg (h : w &&& 0x0E400F90 = 0x00000090) (hsh : w.extractLsb' 5 2 ≠ 0#2) :
    encode (decodeHalfReg w) = w := by
  unfold decodeHalfReg
  split
  case h_1 | h_2 =>
    rename_i h20 h6
    exact word_of_match (match_or_bit (match_or_bit (match_or_bit h h20) h6) (bit5_of_halfword hsh h6))
      (bits_halfRegFields w)
  all_goals
    rename_i h20 h6 h5
    exact word_of_match (match_or_bit (match_or_bit (match_or_bit h h20) h6) h5) (bits_halfRegFields w)

theorem encode_decodeHalfImm (h : w &&& 0x0E400090 = 0x00400090) (hsh : w.extractLsb' 5 2 ≠ 0#2) :
    encode (decodeHalfImm w) = w := by
  unfold decodeHalfImm
  split
  case h_1 | h_2 =>
    rename_i h20 h6
    exact word_of_match (match_or_bit (match_or_bit (match_or_bit h h20) h6) (bit5_of_halfword hsh h6))
      (bits_halfImmFields w)
  all_goals
    rename_i h20 h6 h5
    exact word_of_match (match_or_bit (match_or_bit (match_or_bit h h20) h6) h5) (bits_halfImmFields w)

theorem encode_decodeTransfer (h : w &&& 0x0C000000 = 0x04000000) : encode (decodeTransfer w) = w := by
  unfold decodeTransfer
  split <;> rename_i h22 h20 <;> exact word_of_match (match_or_bit (match_or_bit h h22) h20) (bits_transferFields w)

theorem decodeUndefined_011 (h26 : w.getLsbD 26 = true) :
    decodeUndefined w = .undefined011 (condOf w) (undef011Bits w) := by
  rw [decodeUndefined, h26]
  rfl

theorem decodeUndefined_000 (h26 : w.getLsbD 26 = false) :
    decodeUndefined w = .undefined000 (condOf w) (undef000Bits w) := by
  rw [decodeUndefined, h26]
  rfl

theorem encode_decodeUndefined (h : w &&& 0x0E000010 = 0x06000010 ∨ w &&& 0x0E000090 = 0x00000090) :
    encode (decodeUndefined w) = w := by
  rcases h with h | h
  · rw [decodeUndefined_011 (bit_of_match h (by decide))]
    exact word_of_match h (bits_undef011Bits w)
  · rw [decodeUndefined_000 (bit_of_match h (by decide))]
    exact word_of_match h (bits_undef000Bits w)

theorem encode_decodeBlock (h : w &&& 0x0E000000 = 0x08000000) : encode (decodeBlock w) = w := by
  unfold decodeBlock
  split <;> rename_i h20 <;> exact word_of_match (match_or_bit h h20) (bits_blockFields w)

theorem encode_decodeCoprocTransfer (h : w &&& 0x0E000000 = 0x0C000000) : encode (decodeCoprocTransfer w) = w := by
  unfold decodeCoprocTransfer
  split <;> rename_i h20 <;> exact word_of_match (match_or_bit h h20) (bits_coprocTransferFields w)

theorem encode_decodeCoprocReg (h : w &&& 0x0F000010 = 0x0E000010) : encode (decodeCoprocReg w) = w := by
  unfold decodeCoprocReg
  split <;> rename_i h20 <;> exact word_of_match (match_or_bit h h20) (bits_coprocRegFields w)

end

/-- No bit of a Wide word is dropped: its class fixes the bits the class's rows share, the decoder's choice of a row
those the rows differ in, and the fields hold the others. -/
theorem encode_decodeWide (w : Word) : encode (decodeWide w) = w := by
  have h := classTest_classifyWide w
  unfold decodeWide
  cases hc : classifyWide w <;> rw [hc] at h
  case dataProcessing => exact encode_decodeDataProcessing h.1
  case multiply => exact encode_decodeMultiply h
  case multiplyLong => exact encode_decodeMultiplyLong h
  case singleDataSwap => exact encode_decodeSwap h
  case branchExchange => exact encode_decodeBranchExchange h
  case halfwordRegOffset => exact encode_decodeHalfReg h.1 h.2
  case halfwordImmOffset => exact encode_decodeHalfImm h.1 h.2
  case singleDataTransfer => exact encode_decodeTransfer h.1
  case undefined => exact encode_decodeUndefined (h.imp_right And.left)
  case blockDataTransfer => exact encode_decodeBlock h
  case branch => exact encode_decodeBranch h
  case coprocDataTransfer => exact encode_decodeCoprocTransfer h
  case coprocDataOperation => exact word_of_match h (bits_coprocOpFields w)
  case coprocRegisterTransfer => exact encode_decodeCoprocReg h
  case softwareInterrupt => exact word_of_match h (put_extract w 0 24)

/-! ### The side conditions hold of what is decoded -/

section
variable {w : Word}

/-- With the opcode of TEQ, the fields are those of BX only in a word of BX (30_encoding.md R103). -/
theorem isBxPattern_dpFields (h : w &&& 0x0DE00000 = 0x01200000) :
    (dpFields w).isBxPattern = true ↔ w.extractLsb' 4 24 = 0x12FFF1#24 := by
  simp (disch := decide) only [DpFields.isBxPattern, dpFields, extract_extract, Bool.and_eq_true, beq_iff_eq,
    Bool.not_eq_true']
  constructor
  · rintro ⟨⟨⟨⟨h25, h20⟩, h16⟩, h12⟩, h4⟩
    have hbx : w &&& 0x0FFFFFF0 = 0x012FFF10 :=
      match_or (match_or (match_or (match_or_bit (match_or_bit h h25) h20) (match_extract h16) rfl rfl)
        (match_extract h12) rfl rfl) (match_extract h4)
    exact extract_of_match hbx (by decide)
  · intro h4
    have hbx := match_extract h4
    exact ⟨⟨⟨⟨bit_of_match hbx (by decide), bit_of_match hbx (by decide)⟩, extract_of_match hbx (by decide)⟩,
      extract_of_match hbx (by decide)⟩, extract_of_match hbx (by decide)⟩

theorem wf_decodeDataProcessing (h : ClassTest w .dataProcessing) : (decodeDataProcessing w).WellFormed := by
  obtain ⟨h26, hwf, hbx⟩ := h
  unfold decodeDataProcessing
  split
  case h_10 h24 h23 h22 h21 =>
    have hteq : w &&& 0x0DE00000 = 0x01200000 :=
      match_sub (match_or_bit (match_or_bit (match_or_bit (match_or_bit h26 h24) h23) h22) h21)
    have hx : (dpFields w).isBxPattern = false := by simpa [hbx] using isBxPattern_dpFields hteq
    change ((dpFields w).wf && !(dpFields w).isBxPattern) = true
    rw [hwf, hx]
    rfl
  all_goals exact hwf

theorem wf_decodeUndefined (h : ClassTest w .undefined) : (decodeUndefined w).WellFormed := by
  rcases h with h | ⟨h, hwf⟩
  · rw [decodeUndefined_011 (bit_of_match h (by decide))]
    rfl
  · rw [decodeUndefined_000 (bit_of_match h (by decide))]
    exact hwf

end

/-- Every word decodes to an instruction that meets its side condition. -/
theorem wf_decodeWide (w : Word) : (decodeWide w).WellFormed := by
  have h := classTest_classifyWide w
  unfold decodeWide
  cases hc : classifyWide w <;> rw [hc] at h
  case dataProcessing => exact wf_decodeDataProcessing h
  case undefined => exact wf_decodeUndefined h
  case singleDataTransfer =>
    dsimp only [decodeTransfer]
    split <;> exact h.2
  case branchExchange =>
    dsimp only [decodeBranchExchange]
    split
    · rfl
    · rename_i hrm
      exact congrArg not (Bool.eq_false_of_not_eq_true hrm)
  case coprocDataOperation | softwareInterrupt => rfl
  all_goals
    dsimp only [decodeMultiply, decodeMultiplyLong, decodeSwap, decodeHalfReg, decodeHalfImm, decodeBlock, decodeBranch,
      decodeCoprocTransfer, decodeCoprocReg]
    split <;> rfl

/-- The decoder reads the condition of every word and skips the rows MRS, MSR_reg and MSR_imm (30_encoding.md
R107, R119). -/
theorem cond_core_decodeWide (w : Word) :
    (decodeWide w).cond = some (condOf w) ∧ (decodeWide w).core = decodeWide w := by
  unfold decodeWide
  cases classifyWide w
  case coprocDataOperation | softwareInterrupt => exact ⟨rfl, rfl⟩
  all_goals
    dsimp only [decodeDataProcessing, decodeMultiply, decodeMultiplyLong, decodeSwap, decodeBranchExchange,
      decodeHalfReg, decodeHalfImm, decodeTransfer, decodeUndefined, decodeBlock, decodeBranch, decodeCoprocTransfer,
      decodeCoprocReg]
    split <;> exact ⟨rfl, rfl⟩

theorem core_mrs_ne (c : Cond) (ps : Bool) (rd : Reg) : (Instr.mrs c ps rd).core ≠ .mrs c ps rd := by
  cases ps <;> exact Instr.noConfusion

theorem core_msrReg_ne (c : Cond) (pd : Bool) (m : BitVec 4) (rm : Reg) :
    (Instr.msrReg c pd m rm).core ≠ .msrReg c pd m rm := by
  cases pd <;> exact Instr.noConfusion

theorem core_msrImm_ne (c : Cond) (pd : Bool) (m : BitVec 4) (imm : BitVec 12) :
    (Instr.msrImm c pd m imm).core ≠ .msrImm c pd m imm := by
  cases pd <;> exact Instr.noConfusion

/-- Settles O3: a word that its instruction encodes has the mask and match of the instruction's row, and an instruction
that is its own core is of no skipped row. -/
theorem decodedWideRow : Obligations.DecodedWideRow := by
  intro w
  obtain ⟨hcond, hcore⟩ := cond_core_decodeWide w
  have hrow := encode_row (decodeWide w)
  rw [encode_decodeWide] at hrow
  exact ⟨decodeWide_cls w, hcond, Cond.code_ofCode _, hrow, hcore,
    fun c ps rd h => core_mrs_ne c ps rd (h ▸ hcore), fun c pd m rm h => core_msrReg_ne c pd m rm (h ▸ hcore),
    fun c pd m imm h => core_msrImm_ne c pd m imm (h ▸ hcore)⟩

end Sys2Proof.Proofs
end

section
/-! Every well-formed Wide instruction is read back from its word; the term of a row that R119 skips, as its core
(30_encoding.md R106, R119). -/
namespace Sys2Proof.Proofs
open Sys2Proof.Machine

@[simp] theorem extract_put {k lo l n : Nat} (x : BitVec k) (hl : lo ≤ l) (hn : l + n ≤ 32) :
    (put x lo).extractLsb' l n = x.extractLsb' (l - lo) n := by
  apply BitVec.eq_of_getLsbD_eq
  intro j hj
  rw [extract_getLsbD hj, extract_getLsbD hj, put_getLsbD, show l + j - lo = l - lo + j by omega]
  simp [show l + j < 32 by omega, show lo ≤ l + j by omega]

@[simp] theorem extract_put_other {k lo l n : Nat} (x : BitVec k) (h : l + n ≤ lo ∨ lo + k ≤ l) :
    (put x lo).extractLsb' l n = 0#n := by
  apply BitVec.eq_of_getLsbD_eq
  intro j hj
  rw [extract_getLsbD hj, put_getLsbD, BitVec.getLsbD_zero]
  rcases h with h | h
  · simp [show ¬ lo ≤ l + j by omega]
  · simp [BitVec.getLsbD_of_ge x (l + j - lo) (by omega)]

@[simp] theorem extract_putBit_other {b : Bool} {lo l n : Nat} (h : l + n ≤ lo ∨ lo + 1 ≤ l) :
    (putBit b lo).extractLsb' l n = 0#n := extract_put_other (BitVec.ofBool b) h

theorem extract_beyond {k l n : Nat} (x : BitVec k) (h : k ≤ l) : x.extractLsb' l n = 0#n := by
  apply BitVec.eq_of_getLsbD_eq
  intro j hj
  rw [extract_getLsbD hj, BitVec.getLsbD_of_ge x _ (by omega), BitVec.getLsbD_zero]

@[simp] theorem nibbles_append (x : BitVec 8) : x.extractLsb' 4 4 ++ x.extractLsb' 0 4 = x :=
  (BitVec.extractLsb'_append_extractLsb'_eq_extractLsb' (start₁ := 0) (len₁ := 4) rfl).trans BitVec.extractLsb'_eq_self

/-! ### Fields put in a word and read back, beside a row's match `P` that leaves their bits clear -/

section
variable {P : Word} {c : Cond}

theorem condOf_dpFields_bits {f : DpFields} (hP : P &&& 0xF21FFFFF = 0) :
    condOf (P ||| c.bits ||| f.bits) = c ∧ dpFields (P ||| c.bits ||| f.bits) = f := by
  simp (disch := decide) [condOf, Cond.bits, dpFields, DpFields.bits, BitVec.extractLsb'_or, extract_beyond,
    extract_of_match hP, put_getLsbD, putBit_getLsbD, bit_of_match hP, -BitVec.getLsbD_eq_getElem]

theorem condOf_mulFields_bits {f : MulFields} (hP : P &&& 0xF01FFF0F = 0) :
    condOf (P ||| c.bits ||| f.bits) = c ∧ mulFields (P ||| c.bits ||| f.bits) = f := by
  simp (disch := decide) [condOf, Cond.bits, mulFields, MulFields.bits, BitVec.extractLsb'_or, extract_beyond,
    extract_of_match hP, put_getLsbD, putBit_getLsbD, bit_of_match hP, -BitVec.getLsbD_eq_getElem]

theorem condOf_mulLongFields_bits {f : MulLongFields} (hP : P &&& 0xF01FFF0F = 0) :
    condOf (P ||| c.bits ||| f.bits) = c ∧ mulLongFields (P ||| c.bits ||| f.bits) = f := by
  simp (disch := decide) [condOf, Cond.bits, mulLongFields, MulLongFields.bits, BitVec.extractLsb'_or, extract_beyond,
    extract_of_match hP, put_getLsbD, putBit_getLsbD, bit_of_match hP, -BitVec.getLsbD_eq_getElem]

theorem condOf_swapFields_bits {f : SwapFields} (hP : P &&& 0xF00FF00F = 0) :
    condOf (P ||| c.bits ||| f.bits) = c ∧ swapFields (P ||| c.bits ||| f.bits) = f := by
  simp (disch := decide) [condOf, Cond.bits, swapFields, SwapFields.bits, BitVec.extractLsb'_or, extract_beyond,
    extract_of_match hP]

theorem condOf_halfRegFields_bits {f : HalfRegFields} (hP : P &&& 0xF1AFF00F = 0) :
    condOf (P ||| c.bits ||| f.bits) = c ∧ halfRegFields (P ||| c.bits ||| f.bits) = f := by
  simp (disch := decide) [condOf, Cond.bits, halfRegFields, HalfRegFields.bits, BitVec.extractLsb'_or, extract_beyond,
    extract_of_match hP, put_getLsbD, putBit_getLsbD, bit_of_match hP, -BitVec.getLsbD_eq_getElem]

theorem condOf_halfImmFields_bits {f : HalfImmFields} (hP : P &&& 0xF1AFFF0F = 0) :
    condOf (P ||| c.bits ||| f.bits) = c ∧ halfImmFields (P ||| c.bits ||| f.bits) = f := by
  simp (disch := decide) [condOf, Cond.bits, halfImmFields, HalfImmFields.bits, BitVec.extractLsb'_or, extract_beyond,
    extract_of_match hP, put_getLsbD, putBit_getLsbD, bit_of_match hP, -BitVec.getLsbD_eq_getElem]

theorem condOf_transferFields_bits {f : TransferFields} (hP : P &&& 0xF3AFFFFF = 0) :
    condOf (P ||| c.bits ||| f.bits) = c ∧ transferFields (P ||| c.bits ||| f.bits) = f := by
  simp (disch := decide) [condOf, Cond.bits, transferFields, TransferFields.bits, BitVec.extractLsb'_or,
    extract_beyond, extract_of_match hP, put_getLsbD, putBit_getLsbD, bit_of_match hP, -BitVec.getLsbD_eq_getElem]

theorem condOf_blockFields_bits {f : BlockFields} (hP : P &&& 0xF1EFFFFF = 0) :
    condOf (P ||| c.bits ||| f.bits) = c ∧ blockFields (P ||| c.bits ||| f.bits) = f := by
  simp (disch := decide) [condOf, Cond.bits, blockFields, BlockFields.bits, BitVec.extractLsb'_or, extract_beyond,
    extract_of_match hP, put_getLsbD, putBit_getLsbD, bit_of_match hP, -BitVec.getLsbD_eq_getElem]

theorem condOf_coprocTransferFields_bits {f : CoprocTransferFields} (hP : P &&& 0xF1EFFFFF = 0) :
    condOf (P ||| c.bits ||| f.bits) = c ∧ coprocTransferFields (P ||| c.bits ||| f.bits) = f := by
  simp (disch := decide) [condOf, Cond.bits, coprocTransferFields, CoprocTransferFields.bits, BitVec.extractLsb'_or,
    extract_beyond, extract_of_match hP, put_getLsbD, putBit_getLsbD, bit_of_match hP, -BitVec.getLsbD_eq_getElem]

theorem condOf_coprocOpFields_bits {f : CoprocOpFields} (hP : P &&& 0xF0FFFFEF = 0) :
    condOf (P ||| c.bits ||| f.bits) = c ∧ coprocOpFields (P ||| c.bits ||| f.bits) = f := by
  simp (disch := decide) [condOf, Cond.bits, coprocOpFields, CoprocOpFields.bits, BitVec.extractLsb'_or,
    extract_beyond, extract_of_match hP]

theorem condOf_coprocRegFields_bits {f : CoprocRegFields} (hP : P &&& 0xF0EFFFEF = 0) :
    condOf (P ||| c.bits ||| f.bits) = c ∧ coprocRegFields (P ||| c.bits ||| f.bits) = f := by
  simp (disch := decide) [condOf, Cond.bits, coprocRegFields, CoprocRegFields.bits, BitVec.extractLsb'_or,
    extract_beyond, extract_of_match hP]

theorem condOf_undef000Bits_bits {f : Undef000Bits} (hP : P &&& 0xF1FFFF6F = 0) :
    condOf (P ||| c.bits ||| f.bits) = c ∧ undef000Bits (P ||| c.bits ||| f.bits) = f := by
  simp (disch := decide) [condOf, Cond.bits, undef000Bits, Undef000Bits.bits, BitVec.extractLsb'_or, extract_beyond,
    extract_of_match hP]

theorem condOf_undef011Bits_bits {f : Undef011Bits} (hP : P &&& 0xF1FFFFEF = 0) :
    condOf (P ||| c.bits ||| f.bits) = c ∧ undef011Bits (P ||| c.bits ||| f.bits) = f := by
  simp (disch := decide) [condOf, Cond.bits, undef011Bits, Undef011Bits.bits, BitVec.extractLsb'_or, extract_beyond,
    extract_of_match hP]

theorem condOf_put24 {x : BitVec 24} (hP : P &&& 0xF0FFFFFF = 0) :
    condOf (P ||| c.bits ||| put x 0) = c ∧ (P ||| c.bits ||| put x 0).extractLsb' 0 24 = x := by
  simp (disch := decide) [condOf, Cond.bits, BitVec.extractLsb'_or, extract_beyond, extract_of_match hP]

theorem condOf_put4 {x : BitVec 4} (hP : P &&& 0xF000000F = 0) :
    condOf (P ||| c.bits ||| put x 0) = c ∧ (P ||| c.bits ||| put x 0).extractLsb' 0 4 = x := by
  simp (disch := decide) [condOf, Cond.bits, BitVec.extractLsb'_or, extract_beyond, extract_of_match hP]

theorem condOf_bits (hP : P &&& 0xF0000000 = 0) : condOf (P ||| c.bits) = c := by
  simp (disch := decide) [condOf, Cond.bits, BitVec.extractLsb'_or, extract_of_match hP]

end

/-! ### The rows MRS, MSR_reg and MSR_imm write the words of TST, TEQ, CMP and CMN (30_encoding.md R119) -/

theorem put_setWidth {k l : Nat} (x : BitVec k) (hl : k ≤ l) (lo : Nat) : put (x.setWidth l) lo = put x lo := by
  apply BitVec.eq_of_getLsbD_eq
  intro j _
  rw [put_getLsbD, put_getLsbD, BitVec.getLsbD_setWidth]
  by_cases hj : j - lo < l
  · simp [hj]
  · simp [hj, BitVec.getLsbD_of_ge x (j - lo) (by omega)]

theorem putBit_false (lo : Nat) : putBit false lo = 0#32 := by simp [putBit]

theorem put_zero (k lo : Nat) : put (0#k) lo = 0#32 := by simp [put]

theorem dpBits_noFlags (i : Bool) (rn rd : Reg) (o : BitVec 12) :
    DpFields.bits ⟨i, false, rn, rd, o⟩ = putBit i 25 ||| put rn 16 ||| put rd 12 ||| put o 0 := by
  rw [DpFields.bits, putBit_false, BitVec.or_zero]

/-- The row's match of MRS is split over the DataProcessing fields `k`; the others are `g`. -/
theorem status_pieces (a c p k g : Word) : (a ||| p) ||| c ||| (k ||| g ||| 0#32) = (a ||| k) ||| c ||| p ||| g := by
  rw [BitVec.or_zero]
  ac_rfl

/-- As `status_pieces`, with the constant fields `b` and `r` of MSR_reg and MSR_imm apart. -/
theorem status_pieces_msr (a c p b q r x : Word) :
    (a ||| p) ||| c ||| (b ||| q ||| r ||| x) = (a ||| (b ||| r)) ||| c ||| p ||| q ||| x := by
  ac_rfl

theorem encode_core_mrs (c : Cond) (ps : Bool) (rd : Reg) :
    encode (Instr.mrs c ps rd).core = encode (.mrs c ps rd) := by
  calc encode (Instr.mrs c ps rd).core
      = (0x01000000#32 ||| putBit ps 22) ||| c.bits ||| DpFields.bits ⟨false, false, 15, rd, 0⟩ := by cases ps <;> rfl
    _ = (0x01000000#32 ||| putBit ps 22) ||| c.bits ||| (putBit false 25 ||| put 15 16 ||| put rd 12 ||| 0#32) := by
      rw [dpBits_noFlags]
      rfl
    _ = encode (.mrs c ps rd) := by
      rw [status_pieces, show 0x01000000#32 ||| (putBit false 25 ||| put 15 16) = 0x010F0000#32 by decide]
      rfl

theorem encode_core_msrReg (c : Cond) (pd : Bool) (m : BitVec 4) (rm : Reg) :
    encode (Instr.msrReg c pd m rm).core = encode (.msrReg c pd m rm) := by
  calc encode (Instr.msrReg c pd m rm).core
      = (0x01200000#32 ||| putBit pd 22) ||| c.bits ||| DpFields.bits ⟨false, false, m, 15, rm.setWidth 12⟩ := by
        cases pd <;> rfl
    _ = (0x01200000#32 ||| putBit pd 22) ||| c.bits ||| (putBit false 25 ||| put m 16 ||| put 15 12 ||| put rm 0) := by
      rw [dpBits_noFlags, put_setWidth rm (by decide)]
    _ = encode (.msrReg c pd m rm) := by
      rw [status_pieces_msr, show 0x01200000#32 ||| (putBit false 25 ||| put 15 12) = 0x0120F000#32 by decide]
      rfl

theorem encode_core_msrImm (c : Cond) (pd : Bool) (m : BitVec 4) (imm : BitVec 12) :
    encode (Instr.msrImm c pd m imm).core = encode (.msrImm c pd m imm) := by
  calc encode (Instr.msrImm c pd m imm).core
      = (0x01200000#32 ||| putBit pd 22) ||| c.bits ||| DpFields.bits ⟨true, false, m, 15, imm⟩ := by cases pd <;> rfl
    _ = (0x01200000#32 ||| putBit pd 22) ||| c.bits ||| (putBit true 25 ||| put m 16 ||| put 15 12 ||| put imm 0) := by
      rw [dpBits_noFlags]
    _ = encode (.msrImm c pd m imm) := by
      rw [status_pieces_msr, show 0x01200000#32 ||| (putBit true 25 ||| put 15 12) = 0x0320F000#32 by decide]
      rfl

/-! ### Every well-formed instruction -/

/-- A word with well-formed data-processing fields is in the class, unless they and the opcode are those of BX. -/
theorem classTest_dataProcessing {w : Word} {f : DpFields} (h : w &&& 0x0C000000 = 0) (hf : dpFields w = f)
    (hwf : f.wf = true) (hbx : w &&& 0x0DE00000 = 0x01200000 → f.isBxPattern = false) :
    ClassTest w .dataProcessing := by
  subst hf
  refine ⟨h, hwf, fun hpat => ?_⟩
  have hteq : w &&& 0x0DE00000 = 0x01200000 := match_sub (match_extract hpat)
  rw [(isBxPattern_dpFields hteq).mpr hpat] at hbx
  exact absurd (hbx hteq) (by decide)

/-- The row in the word gives its class and the decoder's choice; the fields are read back as they were put. -/
theorem decodeWide_encode {i : Instr} (hisa : i.isa = .wide) (hwf : i.WellFormed) (hcore : i.core = i) :
    decodeWide (encode i) = i := by
  have hr := encode_row i
  cases i <;> dsimp only [Instr.row] at hr
  case b | bl =>
    rw [decodeWide, classifyWide_of_classTest (c := .branch) (match_sub hr)]
    simp (disch := decide) only [decodeBranch, bit_of_match hr, BitVec.ofNat_eq_ofNat, BitVec.reduceGetLsb]
    simp (disch := decide) only [encode, condOf_put24]
  case bx c rm =>
    have hne : (!(rm == 15#4)) = true := hwf
    rw [decodeWide, classifyWide_of_classTest (c := .branchExchange) hr]
    simp (disch := decide) only [decodeBranchExchange, encode, condOf_put4]
    exact if_neg (by simpa using hne)
  case bxR15 =>
    rw [decodeWide, classifyWide_of_classTest (c := .branchExchange) (match_sub hr)]
    simp (disch := decide) only [decodeBranchExchange, extract_of_match hr]
    exact congrArg Instr.bxR15 (condOf_bits (by decide))
  case mul | mla =>
    rw [decodeWide, classifyWide_of_classTest (c := .multiply) (match_sub hr)]
    simp (disch := decide) only [decodeMultiply, bit_of_match hr, BitVec.ofNat_eq_ofNat, BitVec.reduceGetLsb]
    simp (disch := decide) only [encode, condOf_mulFields_bits]
  case and | eor | sub | rsb | add | adc | sbc | rsc | tst | cmp | cmn | orr | mov | bic | mvn =>
    rw [decodeWide, classifyWide_of_classTest (classTest_dataProcessing (match_sub hr)
      (condOf_dpFields_bits (by decide)).2 hwf fun hteq => absurd (hr.symm.trans hteq) (by decide))]
    simp (disch := decide) only [decodeDataProcessing, bit_of_match hr, BitVec.ofNat_eq_ofNat, BitVec.reduceGetLsb]
    simp (disch := decide) only [encode, condOf_dpFields_bits]
  case teq c f =>
    have hteq : (f.wf && !f.isBxPattern) = true := hwf
    obtain ⟨hwf, hbx⟩ : f.wf = true ∧ f.isBxPattern = false := by simpa using hteq
    rw [decodeWide, classifyWide_of_classTest (classTest_dataProcessing (match_sub hr)
      (condOf_dpFields_bits (by decide)).2 hwf fun _ => hbx)]
    simp (disch := decide) only [decodeDataProcessing, bit_of_match hr, BitVec.ofNat_eq_ofNat, BitVec.reduceGetLsb]
    simp (disch := decide) only [encode, condOf_dpFields_bits]
  case mrs => exact absurd hcore (core_mrs_ne _ _ _)
  case msrReg => exact absurd hcore (core_msrReg_ne _ _ _ _)
  case msrImm => exact absurd hcore (core_msrImm_ne _ _ _ _)
  case umull | umlal | smull | smlal =>
    rw [decodeWide, classifyWide_of_classTest (c := .multiplyLong) (match_sub hr)]
    simp (disch := decide) only [decodeMultiplyLong, bit_of_match hr, BitVec.ofNat_eq_ofNat, BitVec.reduceGetLsb]
    simp (disch := decide) only [encode, condOf_mulLongFields_bits]
  case swp | swpb =>
    rw [decodeWide, classifyWide_of_classTest (c := .singleDataSwap) (match_sub hr)]
    simp (disch := decide) only [decodeSwap, bit_of_match hr, BitVec.ofNat_eq_ofNat, BitVec.reduceGetLsb]
    simp (disch := decide) only [encode, condOf_swapFields_bits]
  case strhReg | ldrhReg | ldrsbReg | ldrshReg | hdtL0Sh10Reg | hdtL0Sh11Reg =>
    rw [decodeWide, classifyWide_of_classTest (c := .halfwordRegOffset)
      ⟨match_sub hr, by rw [extract_of_match hr (by decide)]; decide⟩]
    simp (disch := decide) only [decodeHalfReg, bit_of_match hr, BitVec.ofNat_eq_ofNat, BitVec.reduceGetLsb]
    simp (disch := decide) only [encode, condOf_halfRegFields_bits]
  case strhImm | ldrhImm | ldrsbImm | ldrshImm | hdtL0Sh10Imm | hdtL0Sh11Imm =>
    rw [decodeWide, classifyWide_of_classTest (c := .halfwordImmOffset)
      ⟨match_sub hr, by rw [extract_of_match hr (by decide)]; decide⟩]
    simp (disch := decide) only [decodeHalfImm, bit_of_match hr, BitVec.ofNat_eq_ofNat, BitVec.reduceGetLsb]
    simp (disch := decide) only [encode, condOf_halfImmFields_bits]
  case undefined000 =>
    rw [decodeWide, classifyWide_of_classTest (c := .undefined)
      (.inr ⟨hr, (congrArg Undef000Bits.wf (condOf_undef000Bits_bits (by decide)).2).trans hwf⟩)]
    rw [decodeUndefined_000 (bit_of_match hr (by decide))]
    simp (disch := decide) only [encode, condOf_undef000Bits_bits]
  case undefined011 =>
    rw [decodeWide, classifyWide_of_classTest (c := .undefined) (.inl hr)]
    rw [decodeUndefined_011 (bit_of_match hr (by decide))]
    simp (disch := decide) only [encode, condOf_undef011Bits_bits]
  case str | ldr | strb | ldrb =>
    rw [decodeWide, classifyWide_of_classTest (c := .singleDataTransfer)
      ⟨match_sub hr, (congrArg TransferFields.wf (condOf_transferFields_bits (by decide)).2).trans hwf⟩]
    simp (disch := decide) only [decodeTransfer, bit_of_match hr, BitVec.ofNat_eq_ofNat, BitVec.reduceGetLsb]
    simp (disch := decide) only [encode, condOf_transferFields_bits]
  case stm | ldm =>
    rw [decodeWide, classifyWide_of_classTest (c := .blockDataTransfer) (match_sub hr)]
    simp (disch := decide) only [decodeBlock, bit_of_match hr, BitVec.ofNat_eq_ofNat, BitVec.reduceGetLsb]
    simp (disch := decide) only [encode, condOf_blockFields_bits]
  case stc | ldc =>
    rw [decodeWide, classifyWide_of_classTest (c := .coprocDataTransfer) (match_sub hr)]
    simp (disch := decide) only [decodeCoprocTransfer, bit_of_match hr, BitVec.ofNat_eq_ofNat, BitVec.reduceGetLsb]
    simp (disch := decide) only [encode, condOf_coprocTransferFields_bits]
  case cdp =>
    rw [decodeWide, classifyWide_of_classTest (c := .coprocDataOperation) hr]
    simp (disch := decide) only [encode, condOf_coprocOpFields_bits]
  case mcr | mrc =>
    rw [decodeWide, classifyWide_of_classTest (c := .coprocRegisterTransfer) (match_sub hr)]
    simp (disch := decide) only [decodeCoprocReg, bit_of_match hr, BitVec.ofNat_eq_ofNat, BitVec.reduceGetLsb]
    simp (disch := decide) only [encode, condOf_coprocRegFields_bits]
  case swi =>
    rw [decodeWide, classifyWide_of_classTest (c := .softwareInterrupt) hr]
    simp (disch := decide) only [encode, condOf_put24]
  -- the Narrow instructions
  all_goals cases hisa

/-- A second operand that is a bare register is neither the multiply space's nor that of BX. -/
theorem wf_of_operand2 {f : DpFields} (h : f.operand2.extractLsb' 4 8 = 0#8) :
    f.wf = true ∧ f.isBxPattern = false := by
  have h7 : f.operand2.getLsbD 7 = false := by
    rw [← extract_getLsbD (lo := 4) (n := 8) (j := 3) (by decide), h, BitVec.getLsbD_zero]
  exact ⟨by simp [DpFields.wf, h7, -BitVec.getLsbD_eq_getElem], by simp [DpFields.isBxPattern, h]⟩

/-- The term of a skipped row is decoded as the DataProcessing instruction that its word is. -/
theorem decodeWide_encode_core {i : Instr} (hisa : i.isa = .wide) (hwf : i.WellFormed) :
    decodeWide (encode i) = i.core := by
  cases i
  case mrs c ps rd =>
    have hf := wf_of_operand2 (f := ⟨false, false, 15, rd, 0⟩) (show (0#12).extractLsb' 4 8 = 0#8 by decide)
    rw [← encode_core_mrs]
    cases ps
    · exact decodeWide_encode (i := .tst _ _) rfl hf.1 rfl
    · exact decodeWide_encode (i := .cmp _ _) rfl hf.1 rfl
  case msrReg c pd m rm =>
    obtain ⟨hf, hbx⟩ := wf_of_operand2 (f := ⟨false, false, m, 15, rm.setWidth 12⟩)
      (by rw [BitVec.extractLsb'_setWidth_of_le (by decide), extract_beyond rm (by decide)])
    rw [← encode_core_msrReg]
    cases pd
    · exact decodeWide_encode (i := .teq _ _) rfl (Bool.and_eq_true_iff.mpr ⟨hf, congrArg not hbx⟩) rfl
    · exact decodeWide_encode (i := .cmn _ _) rfl hf rfl
  case msrImm c pd m imm =>
    rw [← encode_core_msrImm]
    cases pd
    · exact decodeWide_encode (i := .teq _ _) rfl rfl rfl
    · exact decodeWide_encode (i := .cmn _ _) rfl rfl rfl
  all_goals exact decodeWide_encode hisa hwf rfl

end Sys2Proof.Proofs
end

section
/-! The Narrow rows: a halfword decodes to the instruction whose row it matches, and no bit of it is dropped
(30_encoding.md R113, R114, R119). -/
namespace Sys2Proof.Proofs
open Sys2Proof.Machine

theorem setWidth_bit (h : Half) (j : Nat) : (h.setWidth 32).getLsbD j = h.getLsbD j := by
  rw [BitVec.getLsbD_setWidth]
  by_cases hj : j < 32
  · simp [hj]
  · simp [hj, BitVec.getLsbD_of_ge h j (by omega)]

section
variable {h : Half}

theorem match_half_high : h.setWidth 32 &&& 0xFFFF0000 = 0 := by
  have hx : (h.setWidth 32).extractLsb' 16 16 = 0#16 := by
    rw [BitVec.extractLsb'_setWidth_of_le (by decide), extract_beyond h (by decide)]
  exact match_sub (match_extract hx)

theorem match_half_bit {m p : Word} (hm : h.setWidth 32 &&& m = p) {j : Nat} {b : Bool} (hb : h.getLsbD j = b) :
    h.setWidth 32 &&& (m ||| putBit true j) = p ||| putBit b j :=
  match_or_bit hm (setWidth_bit h j ▸ hb)

/-- A halfword is put together from its row's match and the bits below it. -/
theorem half_of_match {m p P : Word} {n : Nat} (hm : h.setWidth 32 &&& m = p) (hP : p = P := by decide)
    (hn : m ||| put (BitVec.allOnes n) 0 = BitVec.allOnes 32 := by decide) (hn16 : n ≤ 16 := by decide) :
    P ||| put (h.extractLsb' 0 n) 0 = h.setWidth 32 := by
  have hx : h.extractLsb' 0 n = (h.setWidth 32).extractLsb' 0 n :=
    (BitVec.extractLsb'_setWidth_of_le (by omega)).symm
  rw [hx, put_extract, ← hP, ← hm, ← BitVec.and_or_distrib_left, hn, BitVec.and_allOnes]

theorem encode_decodeAlu (hm : h.setWidth 32 &&& 0xFFFFFC00 = 0x4000) : encode (decodeAlu h) = h.setWidth 32 := by
  unfold decodeAlu
  split <;> rename_i h9 h8 h7 h6 <;>
    exact half_of_match (match_half_bit (match_half_bit (match_half_bit (match_half_bit hm h9) h8) h7) h6)

theorem encode_decodeAddSub (hm : h.setWidth 32 &&& 0xFFFFF800 = 0x1800) : encode (decodeAddSub h) = h.setWidth 32 := by
  unfold decodeAddSub
  split <;> rename_i h10 h9 <;> exact half_of_match (match_half_bit (match_half_bit hm h10) h9)

theorem encode_decodeHiReg (hm : h.setWidth 32 &&& 0xFFFFFC00 = 0x4400) : encode (decodeHiReg h) = h.setWidth 32 := by
  unfold decodeHiReg
  split <;> rename_i h9 h8 <;> exact half_of_match (match_half_bit (match_half_bit hm h9) h8)

theorem encode_decodeRegOffset (hm : h.setWidth 32 &&& 0xFFFFF000 = 0x5000) :
    encode (decodeRegOffset h) = h.setWidth 32 := by
  unfold decodeRegOffset
  split <;> rename_i h11 h10 h9 <;> exact half_of_match (match_half_bit (match_half_bit (match_half_bit hm h11) h10) h9)

theorem encode_decodeD0 (hm : h.setWidth 32 &&& 0xFFFFF800 = 0xD000) : encode (decodeD0 h) = h.setWidth 32 := by
  unfold decodeD0
  split <;> rename_i h10 h9 h8 <;> exact half_of_match (match_half_bit (match_half_bit (match_half_bit hm h10) h9) h8)

theorem encode_decodeD8 (hm : h.setWidth 32 &&& 0xFFFFF800 = 0xD800) : encode (decodeD8 h) = h.setWidth 32 := by
  unfold decodeD8
  split <;> rename_i h10 h9 h8 <;> exact half_of_match (match_half_bit (match_half_bit (match_half_bit hm h10) h9) h8)

theorem encode_decodeB0 (hm : h.setWidth 32 &&& 0xFFFFF800 = 0xB000) : encode (decodeB0 h) = h.setWidth 32 := by
  unfold decodeB0
  split <;> rename_i h10 h9 h8
  -- the row of T14 leaves bit 8 to the operand
  case h_5 | h_6 => exact half_of_match (match_half_bit (match_half_bit hm h10) h9)
  all_goals exact half_of_match (match_half_bit (match_half_bit (match_half_bit hm h10) h9) h8)

theorem encode_decodeB8 (hm : h.setWidth 32 &&& 0xFFFFF800 = 0xB800) : encode (decodeB8 h) = h.setWidth 32 := by
  unfold decodeB8
  split <;> rename_i h10 h9 h8
  -- the row of T14 leaves bit 8 to the operand
  case h_5 | h_6 => exact half_of_match (match_half_bit (match_half_bit hm h10) h9)
  all_goals exact half_of_match (match_half_bit (match_half_bit (match_half_bit hm h10) h9) h8)

/-- No bit of a halfword is dropped. -/
theorem encode_decodeNarrow (h : Half) : encode (decodeNarrow h) = h.setWidth 32 := by
  unfold decodeNarrow
  split <;> rename_i h15 h14 h13 h12 h11 <;>
    have hm := match_half_bit (match_half_bit (match_half_bit (match_half_bit (match_half_bit
      match_half_high h15) h14) h13) h12) h11
  case h_4 => exact encode_decodeAddSub (match_sub hm)
  case h_9 =>
    split
    · rename_i h10
      exact encode_decodeHiReg (match_sub (match_half_bit hm h10))
    · rename_i h10
      exact encode_decodeAlu (match_sub (match_half_bit hm (Bool.eq_false_of_not_eq_true h10)))
  case h_11 | h_12 => exact encode_decodeRegOffset (match_sub hm)
  case h_23 => exact encode_decodeB0 (match_sub hm)
  case h_24 => exact encode_decodeB8 (match_sub hm)
  case h_27 => exact encode_decodeD0 (match_sub hm)
  case h_28 => exact encode_decodeD8 (match_sub hm)
  all_goals exact half_of_match hm

end

/-- The bits outside a Narrow row's mask are read back as they were put. -/
theorem half_payload {h : Half} {P : Word} {n : Nat} {p : BitVec n} (he : (P ||| put p 0).setWidth 16 = h)
    (hP : P.extractLsb' 0 n = 0#n := by decide) (hn : n ≤ 16 := by decide) : h.extractLsb' 0 n = p := by
  rw [← he, BitVec.extractLsb'_setWidth_of_le (by omega), BitVec.extractLsb'_or, hP,
    extract_put p (by omega) (by omega), BitVec.extractLsb'_eq_self, BitVec.zero_or]

/-- A halfword with the match of an instruction's row decodes to an instruction of that row and class, and to the
instruction itself when the bits outside the mask are its own. -/
theorem decodeNarrow_of_row {h : Half} {i j : Instr} (hisa : i.isa = .narrow)
    (hr : ∀ k, k < 16 → i.row.mask.getLsbD k = true → h.getLsbD k = i.row.pattern.getLsbD k)
    (hj : decodeNarrow h = j) :
    j.row = i.row ∧ j.cls = i.cls ∧ ((encode i).setWidth 16 = h → j = i) := by
  cases i <;> dsimp only [Instr.row] at hr
  case tPush | tPop =>
    -- the decoder reads bit 8 too, but to no effect
    cases h8 : h.getLsbD 8
    all_goals
      simp (disch := decide) only [decodeNarrow, decodeB0, decodeB8, hr, h8, BitVec.ofNat_eq_ofNat,
        BitVec.reduceGetLsb] at hj
      subst hj
      exact ⟨rfl, rfl, fun he => by rw [half_payload he]⟩
  -- the Wide instructions
  any_goals (cases hisa; done)
  all_goals
    simp (disch := decide) only [decodeNarrow, decodeAddSub, decodeHiReg, decodeAlu, decodeRegOffset, decodeB0,
      decodeB8, decodeD0, decodeD8, hr, BitVec.ofNat_eq_ofNat, BitVec.reduceGetLsb, if_true, Bool.false_eq_true,
      if_false] at hj
    subst hj
    exact ⟨rfl, rfl, fun he => by rw [half_payload he]⟩

theorem half_bit_of_match {h : Half} {m p : Word} (hm : h.setWidth 32 &&& m = p) (k : Nat) (_ : k < 16)
    (hk : m.getLsbD k = true) : h.getLsbD k = p.getLsbD k := by
  rw [← setWidth_bit, bit_of_match hm hk]

theorem decodeNarrow_encode {i : Instr} (hisa : i.isa = .narrow) : decodeNarrow ((encode i).setWidth 16) = i := by
  refine (decodeNarrow_of_row hisa (fun k hk hm => ?_) rfl).2.2 rfl
  rw [BitVec.getLsbD_setWidth, bit_of_match (encode_row i) hm, decide_eq_true hk, Bool.true_and]

/-- A Narrow instruction is its own core, and has no side condition. -/
theorem wf_core_of_narrow {i : Instr} (hisa : i.isa = .narrow) : i.WellFormed ∧ i.core = i := by
  cases i
  any_goals exact ⟨rfl, rfl⟩
  all_goals cases hisa

theorem isa_of_cond_eq_none {i : Instr} (h : i.cond = none) : i.isa = .narrow := by
  cases i
  any_goals rfl
  all_goals cases h

theorem decodeNarrow_isa (h : Half) : (decodeNarrow h).isa = .narrow := isa_of_cond_eq_none (decodeNarrow_cond h)

theorem decodeWide_isa (w : Word) : (decodeWide w).isa = .wide := by
  rw [Instr.isa, decodeWide_cls]

theorem decodeNarrow_row (h : Half) : h.setWidth 32 &&& (decodeNarrow h).row.mask = (decodeNarrow h).row.pattern := by
  rw [← encode_decodeNarrow h, encode_row]

/-- Settles O5: a halfword has the match of its own row, and a row whose match it has is its own. -/
theorem narrowRowsPartition : Obligations.NarrowRowsPartition := by
  intro h i hisa
  constructor
  · intro hm
    exact (decodeNarrow_of_row hisa (half_bit_of_match hm) rfl).1.symm
  · intro hrow
    rw [hrow, decodeNarrow_row]

/-! ### The undefined high bytes -/

theorem cls_of_row {h : Half} {i : Instr} (hisa : i.isa = .narrow) (hm : h.setWidth 32 &&& i.row.mask = i.row.pattern) :
    (decodeNarrow h).cls = i.cls :=
  (decodeNarrow_of_row hisa (half_bit_of_match hm) rfl).2.1

theorem match_highByte {h : Half} {b : Byte} (hb : h.extractLsb' 8 8 = b) {M P : Word}
    (hM : 0xFF00 &&& M = M := by decide) (hP : put b 8 &&& M = P := by decide) : h.setWidth 32 &&& M = P := by
  rw [← BitVec.extractLsb'_setWidth_of_le (w' := 32) (by decide)] at hb
  exact match_sub (match_extract hb) hM hP

theorem highByte_of_match {h : Half} {m p : Word} (hm : h.setWidth 32 &&& m = p)
    (h8 : m.extractLsb' 8 8 = BitVec.allOnes 8 := by decide) : h.extractLsb' 8 8 = p.extractLsb' 8 8 := by
  rw [← BitVec.extractLsb'_setWidth_of_le (w' := 32) (by decide), extract_of_match hm h8]

/-- The 20 high bytes of 30_encoding.md R114. -/
def undefinedHighBytes : List Byte :=
  [0xB1, 0xB2, 0xB3, 0xB6, 0xB7, 0xB8, 0xB9, 0xBA, 0xBB, 0xBE, 0xBF, 0xDE,
    0xE8, 0xE9, 0xEA, 0xEB, 0xEC, 0xED, 0xEE, 0xEF]

theorem highByte_E8_EF (b : Byte) (hb : b.extractLsb' 3 5 = 0x1D#5) : b ∈ undefinedHighBytes := by
  revert b
  decide

theorem highByte_of_undefined {h : Half} {i : Instr} (hm : h.setWidth 32 &&& i.row.mask = i.row.pattern)
    (hc : i.cls = .narrow .undefined) : h.extractLsb' 8 8 ∈ undefinedHighBytes := by
  cases i <;> dsimp only [Instr.row] at hm
  case narrowUndefB1 | narrowUndefB2 | narrowUndefB3 | narrowUndefB6 | narrowUndefB7 | narrowUndefB8 | narrowUndefB9 |
      narrowUndefBa | narrowUndefBb | narrowUndefBe | narrowUndefBf | narrowUndefDe =>
    rw [highByte_of_match hm]
    decide
  case narrowUndefE8Ef =>
    apply highByte_E8_EF
    rw [extract_extract (by decide), ← BitVec.extractLsb'_setWidth_of_le (w' := 32) (by decide),
      extract_of_match hm (by decide)]
    decide
  all_goals cases hc

theorem undefined_of_highByte {h : Half} (hb : h.extractLsb' 8 8 ∈ undefinedHighBytes) :
    (decodeNarrow h).cls = .narrow .undefined := by
  simp only [undefinedHighBytes, List.mem_cons, List.not_mem_nil, or_false] at hb
  rcases hb with hb | hb | hb | hb | hb | hb | hb | hb | hb | hb | hb | hb | hb | hb | hb | hb | hb | hb | hb | hb
  · exact cls_of_row (i := .narrowUndefB1 0) rfl (match_highByte hb)
  · exact cls_of_row (i := .narrowUndefB2 0) rfl (match_highByte hb)
  · exact cls_of_row (i := .narrowUndefB3 0) rfl (match_highByte hb)
  · exact cls_of_row (i := .narrowUndefB6 0) rfl (match_highByte hb)
  · exact cls_of_row (i := .narrowUndefB7 0) rfl (match_highByte hb)
  · exact cls_of_row (i := .narrowUndefB8 0) rfl (match_highByte hb)
  · exact cls_of_row (i := .narrowUndefB9 0) rfl (match_highByte hb)
  · exact cls_of_row (i := .narrowUndefBa 0) rfl (match_highByte hb)
  · exact cls_of_row (i := .narrowUndefBb 0) rfl (match_highByte hb)
  · exact cls_of_row (i := .narrowUndefBe 0) rfl (match_highByte hb)
  · exact cls_of_row (i := .narrowUndefBf 0) rfl (match_highByte hb)
  · exact cls_of_row (i := .narrowUndefDe 0) rfl (match_highByte hb)
  all_goals exact cls_of_row (i := .narrowUndefE8Ef 0) rfl (match_highByte hb)

/-- Settles O4: the undefined rows are those of the 20 bytes, and no halfword of another row is in their class. -/
theorem narrowUndefinedHighBytes : Obligations.NarrowUndefinedHighBytes := by
  refine ⟨fun h => ⟨highByte_of_undefined (decodeNarrow_row h), undefined_of_highByte⟩, fun h => ⟨?_, ?_⟩, by decide,
    rfl⟩
  · intro hc i hisa hne hm
    exact hne ((cls_of_row hisa hm).symm.trans hc)
  · intro hno
    by_contra hc
    exact hno (decodeNarrow h) (decodeNarrow_isa h) hc (decodeNarrow_row h)

end Sys2Proof.Proofs
end

section
/-! The round trips of the decoder and the encoder over both instruction sets and over bytes (30_encoding.md R106, R113,
R119). -/
namespace Sys2Proof.Proofs
open Sys2Proof.Machine

/-- Settles O7: the row's match is in the word, and the fields hold every other bit. -/
theorem encodeOfDecode : Obligations.EncodeOfDecode :=
  ⟨fun w => ⟨wf_decodeWide w, decodeWide_isa w, encode_decodeWide w⟩,
    fun h => ⟨(wf_core_of_narrow (decodeNarrow_isa h)).1, decodeNarrow_isa h, encode_decodeNarrow h⟩⟩

theorem decodeFetched_encode {i : Instr} (hwf : i.WellFormed) : decodeFetched i.isa (encode i) = i.core := by
  cases hisa : i.isa with
  | wide => exact decodeWide_encode_core hisa hwf
  | narrow => exact (decodeNarrow_encode hisa).trans (wf_core_of_narrow hisa).2.symm

theorem leWord_leBytes_half (w : Word) : (leWord (leBytes w 2)).setWidth 16 = w.setWidth 16 := by
  apply BitVec.eq_of_getLsbD_eq
  intro j hj
  simp only [leBytes, BitVec.getLsbD_setWidth, hj, decide_true, Bool.true_and, leWord_cons_getLsbD,
    BitVec.getLsbD_ushiftRight]
  split
  · rename_i h8
    simp [h8]
  · rename_i h8
    rw [if_pos (by omega), show 8 + (j - 8) = j by omega, decide_eq_true (show j < 32 by omega),
      decide_eq_true (show j - 8 < 8 by omega), Bool.true_and, Bool.true_and]

/-- The bytes of a fetched word decode to what the word decodes to. -/
theorem decode_leBytes (isa : InstrSet) (w : Word) (rest : List Byte) :
    decode isa (leBytes w isa.bytes ++ rest) = .ok (decodeFetched isa w, rest) := by
  cases isa with
  | wide =>
    change Except.ok (decodeWide (leWord (leBytes w 4)), rest) = _
    rw [leWord_leBytes_word]
    rfl
  | narrow =>
    change Except.ok (decodeNarrow ((leWord (leBytes w 2)).setWidth 16), rest) = _
    rw [leWord_leBytes_half]
    rfl

/-- Settles O6: the word of an instruction has its row, its class and its fields, which is all that the decoder
reads. -/
theorem decodeOfEncode : Obligations.DecodeOfEncode := by
  intro i hwf
  have hi := decodeFetched_encode hwf
  exact ⟨hi, fun rest => by rw [decode_leBytes, hi]⟩

end Sys2Proof.Proofs
end

section
/-! Bit ranges, the branch offset, and a few words of the spec (30_encoding.md R100, R105, R106, R108, R113). -/
namespace Sys2Proof.Proofs
open Sys2Proof.Machine

/-- Bit `j` of a range whose bounds are in order (30_encoding.md R100). -/
theorem extractBits_getLsbD (w : Word) (h l : Fin 32) (hle : l ≤ h) (j : Nat) :
    (extractBits w h l).getLsbD j = (decide (j ≤ h.val - l.val) && w.getLsbD (l.val + j)) := by
  have hh := h.isLt
  rw [extractBits, if_neg (not_lt.mpr hle), if_neg (not_lt.mpr hle), BitVec.getLsbD_and, BitVec.getLsbD_ushiftRight,
    BitVec.getLsbD_ofNat, Nat.testBit_two_pow_sub_one, Bool.and_comm]
  by_cases hj : j ≤ h.val - l.val
  · simp [hj, show j < 32 by omega, show j < h.val - l.val + 1 by omega]
  · simp [hj, show ¬ j < h.val - l.val + 1 by omega]

theorem extractBits_comm (w : Word) (h l : Fin 32) : extractBits w h l = extractBits w l h := by
  rcases lt_trichotomy h l with hlt | rfl | hlt
  · simp only [extractBits, if_pos hlt, if_neg hlt.asymm]
  · rfl
  · simp only [extractBits, if_pos hlt, if_neg hlt.asymm]

/-- Settles O1: the mask leaves the bits of the range, which is the whole word from 31 to 0. -/
theorem extractBits_ranges : Obligations.ExtractBits := by
  refine ⟨extractBits_comm, fun w => ?_, extractBits_getLsbD, by decide, by decide⟩
  apply BitVec.eq_of_getLsbD_eq
  intro j hj
  rw [extractBits_getLsbD w 31 0 (by decide)]
  simp [show j ≤ 31 by omega]

theorem toInt_bounds24 (off : BitVec 24) : -(2 ^ 23) ≤ off.toInt ∧ off.toInt < 2 ^ 23 :=
  ⟨BitVec.le_toInt off, BitVec.toInt_lt⟩

theorem toInt_branchOffset (off : BitVec 24) : (branchOffset off).toInt = 4 * off.toInt := by
  obtain ⟨hlo, hhi⟩ := toInt_bounds24 off
  rw [branchOffset, BitVec.shiftLeft_eq_mul_twoPow, BitVec.toInt_mul, BitVec.toInt_signExtend_of_le (by decide),
    show (BitVec.twoPow 32 2).toInt = 4 by decide, Int.mul_comm]
  exact Int.bmod_eq_of_le (by omega) (by omega)

/-- Settles O12: the scaled field is in range of a word, so nothing is lost. -/
theorem branchOffsetScaled : Obligations.BranchOffsetScaled := by
  refine ⟨fun off => ⟨toInt_branchOffset off, ?_⟩, by decide, by decide⟩
  obtain ⟨hlo, hhi⟩ := toInt_bounds24 off
  rw [toInt_branchOffset]
  omega

/-- Settles O8: the model evaluates each word. -/
theorem specWordsDecode : Obligations.SpecWordsDecode := by
  unfold Obligations.SpecWordsDecode
  decide

end Sys2Proof.Proofs
end

section
/-! What `exec` is by an instruction's class, and the outcomes of a condition stage and of a handler (40_dispatch.md
R135-R137, R140; 43_unimplemented.md R170). -/
namespace Sys2Proof.Proofs
open Sys2Proof.Machine

/-- An instruction has no condition exactly when it is Narrow (R107, R137). -/
theorem isa_eq_narrow_iff {i : Instr} : i.isa = .narrow ↔ i.cond = none := by
  refine ⟨fun h => ?_, isa_of_cond_eq_none⟩
  cases i
  any_goals rfl
  all_goals cases h

theorem withOperand_ne_refused {i : Reg} {s : State} {k : Word → Result} {q : Refusal}
    (hk : ∀ v, k v ≠ .refused q) : withOperand (readChecked i s) k ≠ .refused q := by
  cases readChecked i s with
  | error e => exact nofun
  | ok v => exact hk v

/-- The three forms of `exec`: the stub at once, the stub behind a condition, and a handler, which never refuses,
behind a condition. -/
inductive ExecForm (i : Instr) : Prop
  | narrow (hcond : i.cond = none) (h : ∀ s, exec i s = unimplemented i.cls (encode i) s)
  | stub {c : Cond} {cls : WideClass} (hcond : i.cond = some c) (hcls : i.cls = .wide cls)
      (hno : cls ∉ [WideClass.branch, WideClass.branchExchange, WideClass.multiply])
      (h : ∀ s, exec i s = whenCondition c s (unimplemented (.wide cls) (encode i) s))
  | handled {c : Cond} {k : State → Result} (hcond : i.cond = some c)
      (hcls : i.cls ∈ [FormatClass.wide .branch, FormatClass.wide .branchExchange, FormatClass.wide .multiply])
      (hk : IsHandler k) (hne : ∀ s q, k s ≠ .refused q) (h : ∀ s, exec i s = whenCondition c s (k s))

/-- Every instruction has one of the three forms, and its class says which. -/
theorem exec_form (i : Instr) : ExecForm i := by
  cases i
  case b c off => exact .handled rfl (by simp [Instr.cls]) (.branch off) (fun _ _ => nofun) fun _ => rfl
  case bl c off => exact .handled rfl (by simp [Instr.cls]) (.link off) (fun _ _ => nofun) fun _ => rfl
  case bx c rm =>
    refine .handled rfl (by simp [Instr.cls]) (.exchange rm) (fun _ _ => ?_) (exec_bx c rm)
    split
    · exact nofun
    · exact withOperand_ne_refused fun _ => nofun
  case bxR15 c => exact .handled rfl (by simp [Instr.cls]) .invalid (fun _ _ => nofun) fun _ => rfl
  case mul c f =>
    exact .handled rfl (by simp [Instr.cls]) (.mul f)
      (fun _ _ => withOperand_ne_refused fun _ => withOperand_ne_refused fun _ => nofun) (exec_mul c f)
  case mla c f =>
    exact .handled rfl (by simp [Instr.cls]) (.mla f)
      (fun _ _ => withOperand_ne_refused fun _ => withOperand_ne_refused fun _ => withOperand_ne_refused fun _ => nofun)
      (exec_mla c f)
  any_goals exact .narrow rfl fun _ => rfl
  all_goals exact .stub rfl rfl (by decide) fun _ => rfl

/-- Settles O27: the stub at once is the form of the instructions with no condition. -/
theorem narrowStops : Obligations.NarrowStops := by
  intro i s hisa
  have hnone := isa_eq_narrow_iff.mp hisa
  cases exec_form i with
  | narrow _ h => exact h s
  | stub hcond | handled hcond => exact absurd (hnone.symm.trans hcond) nofun

/-- A failed condition only advances the counter (R135). -/
theorem exec_of_condFails {i : Instr} {c : Cond} {s : State} (hi : i.cond = some c) (hc : CondFails c s) :
    exec i s = .next (advance (pcOf s) s) := by
  cases exec_form i with
  | narrow hcond => exact absurd (hcond.symm.trans hi) nofun
  | stub hcond _ _ h | handled hcond _ _ _ h =>
    obtain rfl := Option.some.inj (hcond.symm.trans hi)
    rw [h, whenCondition_fails hc]

/-- Settles O11: the state is the counter's advance, which writes x[15] alone. -/
theorem conditionFailedAdvances : Obligations.ConditionFailedAdvances := fun _ _ s hi hc =>
  ⟨_, exec_of_condFails hi hc, rfl, rfl, setPc_only _ s, setPc_modes _ s⟩

/-! ### The table of the conditions -/

/-- The table of R130, entry by entry. -/
theorem conditionMet_eq_getD (c : Cond) (f : FlagSet Bool) : conditionMet c f =
    [f.z, !f.z, f.c, !f.c, f.n, !f.n, f.v, !f.v, f.c && !f.z, !f.c || f.z, f.n == f.v, f.n != f.v,
      !f.z && (f.n == f.v), f.z || (f.n != f.v), true, false].getD c.code.toNat false := by
  cases c <;> rfl

theorem toNat_code_condOf (w : Word) : (condOf w).code.toNat = w.toNat / 2 ^ 28 := by
  rw [condOf, Cond.code_ofCode, BitVec.extractLsb'_toNat, Nat.shiftRight_eq_div_pow]
  have hw := w.isLt
  omega

/-- A condition stage that answers, answers the predicate of the active bank's flags. -/
theorem evalCond_ok {c : Cond} {s : State} {b : Bool} (h : evalCond c s = .ok b) :
    b = conditionMet c (activeFlags s) := by
  rcases evalCond_cases c s with ⟨_, he⟩ | ⟨_, _, _, _, he⟩
  · exact Except.ok.inj (h.symm.trans he)
  · exact absurd (h.symm.trans he) nofun

/-- Settles O9: the code of a word's condition is its top four bits. -/
theorem conditionTable : Obligations.ConditionTable :=
  ⟨fun w f => by rw [← toNat_code_condOf]; exact conditionMet_eq_getD _ f, fun _ _ _ => evalCond_ok⟩

end Sys2Proof.Proofs
end

section
/-! The fetch: the bytes it reads, and the step of what they decode to (40_dispatch.md R132, R138). -/
namespace Sys2Proof.Proofs
open Sys2Proof.Machine

theorem fetchWidth_bytes (isa : InstrSet) : (fetchWidth isa).bytes = isa.bytes := by cases isa <;> rfl

theorem readByteP_isOk_iff {a : Word} {s : State} :
    (∃ b, readByteP a s = .ok b) ↔ ∃ l, resolve s.params a = .ok l := by
  simp [readByteP_eq_ok]

/-- A read whose bytes are `bs` answers their little-endian word (20_memory.md R80, R87). -/
theorem memRead_of_bytes {a : Word} {w : Width} {s : State} {bs : List Byte} (hlen : bs.length = w.bytes)
    (h : ∀ k, (hk : k < bs.length) → readByteP (a + BitVec.ofNat 32 k) s = .ok bs[k]) :
    memRead a w s = .ok (leWord bs) := by
  have hbyte : ∀ k, (hk : k < bs.length) → bs[k] = (leWord bs >>> (8 * k)).setWidth 8 := fun k hk => by
    have hw := w.bytes_le
    rw [leWord_byte bs k (by omega), List.getElem?_eq_getElem hk, Option.getD_some]
  rw [(leWord_eq_lowBytes w (leWord bs) bs hlen).mpr hbyte]
  exact memRead_lowBytes fun k hk => by rw [← hbyte k (hlen ▸ hk)]; exact h k (hlen ▸ hk)

theorem fetch_of_bytes {s : State} {bs : List Byte} (hlen : bs.length = s.isa.bytes)
    (h : ∀ k, (hk : k < bs.length) → readByteP (pcOf s + BitVec.ofNat 32 k) s = .ok bs[k]) :
    fetch s = .ok (decodeFetched s.isa (leWord bs)) := by
  rw [fetch, memRead_of_bytes (hlen.trans (fetchWidth_bytes s.isa).symm) h]

/-- The first byte of a fetch that does not resolve is its fault (R132, E1). -/
theorem fetch_of_bad_byte {s : State} {k : Nat} (hk : k < s.isa.bytes)
    (hgood : ∀ j, j < k → ∃ b, readByteP (pcOf s + BitVec.ofNat 32 j) s = .ok b)
    (hbad : ¬ ∃ b, readByteP (pcOf s + BitVec.ofNat 32 k) s = .ok b) :
    fetch s = .error (.fetchFault (pcOf s + BitVec.ofNat 32 k)) := by
  rw [← fetchWidth_bytes] at hk
  have hspan := spanOf_error_of_first hk (fun j hj => readByteP_isOk_iff.mp (hgood j hj))
    (resolve_error_of_not_ok (mt readByteP_isOk_iff.mpr hbad))
  rw [fetch, (memAccess_error 0 hspan).1]

/-- Settles O47: the width of the fetch is the instruction set's. -/
theorem fetchReadsAtCounter : Obligations.FetchReadsAtCounter := by
  intro s n
  rw [show n = s.isa.bytes from rfl]
  exact ⟨fun bs => fetch_of_bytes, fun k hk hgood hbad => step_of_fetch_error (fetch_of_bad_byte hk hgood hbad)⟩

theorem wf_decodeFetched (isa : InstrSet) (w : Word) : (decodeFetched isa w).WellFormed := by
  cases isa with
  | wide => exact wf_decodeWide w
  | narrow => exact (wf_core_of_narrow (decodeNarrow_isa _)).1

/-- Exactly as many bytes as an instruction has decode with none left over. -/
theorem decode_of_length {isa : InstrSet} {bs : List Byte} (h : bs.length = isa.bytes) :
    decode isa bs = .ok (decodeFetched isa (leWord bs), []) := by
  cases isa with
  | wide => match bs, h with | [_, _, _, _], _ => rfl
  | narrow => match bs, h with | [_, _], _ => rfl

/-- Settles O48: both `decode` and `fetch` answer the decoding of the bytes' word. -/
theorem stepRunsFetched : Obligations.StepRunsFetched := by
  intro s bs i hlen hbytes hdec
  have hfetch := fetch_of_bytes hlen hbytes
  cases (decode_of_length hlen).symm.trans hdec
  exact ⟨wf_decodeFetched _ _, hfetch, step_of_fetch hfetch⟩

end Sys2Proof.Proofs
end

section
/-! When each outcome of a step arises (40_dispatch.md R140). -/
namespace Sys2Proof.Proofs
open Sys2Proof.Machine

/-! ### Continue -/

/-- A next state is that of a failed condition, or of a handler of one of the three classes that have one (R136). -/
theorem exec_continues {i : Instr} {s t : State} (h : exec i s = .next t) :
    ∃ c, i.cond = some c ∧ (CondFails c s ∨ (CondPasses c s ∧
      i.cls ∈ [FormatClass.wide .branch, FormatClass.wide .branchExchange, FormatClass.wide .multiply])) := by
  cases exec_form i with
  | narrow _ he => cases (he s).symm.trans h
  | stub hcond _ _ he => exact ⟨_, hcond, .inl (wideUnimplemented_next ((he s).symm.trans h)).1⟩
  | handled hcond hcls _ _ he =>
    exact ⟨_, hcond, (whenCondition_next ((he s).symm.trans h)).imp And.left fun hc => ⟨hc.1, hcls⟩⟩

/-! ### Unimplemented -/

theorem whenCondition_refused {c : Cond} {s : State} {r : Result} {q : Refusal}
    (h : whenCondition c s r = .refused q) : CondPasses c s ∧ r = .refused q := by
  unfold whenCondition at h
  split at h
  · cases h
  · cases h
  · exact ⟨‹_›, h⟩

/-- A refusal is the stub's: of a Narrow instruction, or of a class with no handler whose condition passed (R170). -/
theorem exec_refused {i : Instr} {s : State} {r : Refusal} (h : exec i s = .refused r) :
    r = .unimplemented i.cls (encode i) (pcOf s) ∧
      (i.isa = .narrow ∨ ∃ c cls, i.cond = some c ∧ CondPasses c s ∧ i.cls = .wide cls ∧
        cls ∉ [WideClass.branch, WideClass.branchExchange, WideClass.multiply]) := by
  cases exec_form i with
  | narrow hcond he =>
    cases (he s).symm.trans h
    exact ⟨rfl, .inl (isa_eq_narrow_iff.mpr hcond)⟩
  | stub hcond hcls hno he =>
    obtain ⟨hpass, hr⟩ := whenCondition_refused ((he s).symm.trans h)
    cases hr
    exact ⟨by rw [hcls], .inr ⟨_, _, hcond, hpass, hcls, hno⟩⟩
  | handled _ _ _ hne he => exact absurd (whenCondition_refused ((he s).symm.trans h)).2 (hne s r)

/-! ### Faults -/

/-- The fault of a read of a slot whose mark is clear (10_state.md R45). -/
def IsUnwrittenRead (s : State) (e : Fault) : Prop := ∃ slot, e = .unwrittenRead slot ∧ isWritten slot s = false

theorem whenCondition_fault {c : Cond} {s : State} {r : Result} {e : Fault} (h : whenCondition c s r = .fault e) :
    IsUnwrittenRead s e ∨ r = .fault e := by
  rcases evalCond_cases c s with ⟨_, he⟩ | ⟨f, _, hw, _, he⟩
  · cases hb : conditionMet c (activeFlags s) with
    | false => cases (whenCondition_fails (he.trans (by rw [hb])) r).symm.trans h
    | true => exact .inr ((whenCondition_passes (he.trans (by rw [hb])) r).symm.trans h)
  · cases (whenCondition_unwritten he r).symm.trans h
    exact .inl ⟨_, rfl, hw⟩

theorem withOperand_fault {i : Reg} {s : State} {k : Word → Result} {e : Fault}
    (h : withOperand (readChecked i s) k = .fault e) (hk : ∀ v, k v = .fault e → IsUnwrittenRead s e) :
    IsUnwrittenRead s e := by
  rcases readChecked_eq i s with ⟨_, hr⟩ | ⟨hw, hr⟩ <;> rw [hr] at h
  · exact hk _ h
  · cases h
    exact ⟨_, rfl, hw⟩

theorem handler_fault {k : State → Result} (hk : IsHandler k) {s : State} {e : Fault} (h : k s = .fault e) :
    IsUnwrittenRead s e := by
  cases hk with
  | branch | link | invalid | stub => cases h
  | exchange rm =>
    dsimp only at h
    split at h
    · cases h
    · exact withOperand_fault h fun _ => nofun
  | mul f => exact withOperand_fault h fun _ h => withOperand_fault h fun _ => nofun
  | mla f => exact withOperand_fault h fun _ h => withOperand_fault h fun _ h => withOperand_fault h fun _ => nofun

theorem exec_fault {i : Instr} {s : State} {e : Fault} (h : exec i s = .fault e) : IsUnwrittenRead s e := by
  cases exec_form i with
  | narrow _ he => cases (he s).symm.trans h
  | stub _ _ _ he => exact (whenCondition_fault ((he s).symm.trans h)).resolve_right nofun
  | handled _ _ hk _ he => exact (whenCondition_fault ((he s).symm.trans h)).elim id (handler_fault hk)

/-- A fetch that faults names one of its own bytes, which does not resolve (R132, E1). -/
theorem fetch_error {s : State} {e : Fault} (h : fetch s = .error e) :
    ∃ k, k < s.isa.bytes ∧ e = .fetchFault (pcOf s + BitVec.ofNat 32 k) ∧
      ¬ ∃ b, readByteP (pcOf s + BitVec.ofNat 32 k) s = .ok b := by
  rw [fetch] at h
  rcases memRead_cases (pcOf s) (fetchWidth s.isa) s with ⟨p, hspan, hread⟩ | ⟨_, _, hread⟩ <;> rw [hread] at h
  · obtain ⟨k, hk, hbad, _⟩ := spanOf_error hspan
    cases resolve_error hbad
    cases h
    rw [fetchWidth_bytes] at hk
    refine ⟨k, hk, rfl, fun hb => ?_⟩
    obtain ⟨l, hl⟩ := readByteP_isOk_iff.mp hb
    cases hbad.symm.trans hl
  · cases h

/-- Settles O49: the step is the fetch's fault, or `exec` of what was fetched. -/
theorem stepOutcomes : Obligations.StepOutcomes := by
  intro s
  cases hf : fetch s with
  | error e =>
    rw [step_of_fetch_error hf]
    refine ⟨fun _ => nofun, fun _ => nofun, fun e' he => .inl ?_⟩
    cases he
    exact fetch_error hf
  | ok i =>
    rw [step_of_fetch hf]
    refine ⟨fun t ht => ?_, fun r hr => ⟨i, rfl, exec_refused hr⟩, fun e he => .inr (exec_fault he)⟩
    obtain ⟨c, hc⟩ := exec_continues ht
    exact ⟨i, c, rfl, hc⟩

end Sys2Proof.Proofs
end

section
/-! Branches: what a word of each row decodes to, the state each handler leaves once its condition has passed, and the
call that comes back (41_branch.md R150-R153, R155). -/
namespace Sys2Proof.Proofs
open Sys2Proof.Machine

/-! ### Decoding -/

theorem decodeWide_of_branch {w : Word} (h : w &&& 0x0E000000 = 0x0A000000) : decodeWide w = decodeBranch w := by
  rw [decodeWide, classifyWide_of_classTest (c := .branch) h]

theorem decodeWide_of_branchExchange {w : Word} (h : w &&& 0x0FFFFFF0 = 0x012FFF10) :
    decodeWide w = decodeBranchExchange w := by
  rw [decodeWide, classifyWide_of_classTest (c := .branchExchange) h]

/-- Bit 24 is the link bit: clear in the row of B (30_encoding.md R106). -/
theorem decodeWide_b {w : Word} (h : w &&& 0x0F000000 = 0x0A000000) :
    decodeWide w = .b (condOf w) (w.extractLsb' 0 24) := by
  have hlink : w.getLsbD 24 = false := bit_of_match h (by decide)
  rw [decodeWide_of_branch (match_sub h), decodeBranch, hlink]

theorem decodeWide_bl {w : Word} (h : w &&& 0x0F000000 = 0x0B000000) :
    decodeWide w = .bl (condOf w) (w.extractLsb' 0 24) := by
  have hlink : w.getLsbD 24 = true := bit_of_match h (by decide)
  rw [decodeWide_of_branch (match_sub h), decodeBranch, hlink]

theorem decodeWide_bx {w : Word} (h : w &&& 0x0FFFFFF0 = 0x012FFF10) (hrm : w.extractLsb' 0 4 ≠ 15) :
    decodeWide w = .bx (condOf w) (w.extractLsb' 0 4) := by
  rw [decodeWide_of_branchExchange h, decodeBranchExchange, if_neg (by simpa using hrm)]

theorem decodeWide_bxR15 {w : Word} (h : w &&& 0x0FFFFFFF = 0x012FFF1F) : decodeWide w = .bxR15 (condOf w) := by
  have hrm : w.extractLsb' 0 4 = 15#4 := extract_of_match h (by decide)
  rw [decodeWide_of_branchExchange (match_sub h), decodeBranchExchange, if_pos (by simpa using hrm)]

/-! ### The handlers -/

section
variable {c : Cond} {s : State} (hc : CondPasses c s)
include hc

theorem exec_b_passes (off : BitVec 24) : exec (.b c off) s = .next (setPc (branchTarget off s) s) :=
  whenCondition_passes hc _

theorem exec_bl_passes (off : BitVec 24) :
    exec (.bl c off) s = .next (setPc (branchTarget off s) (writeReg 14 (pcOf s + 4) s)) :=
  whenCondition_passes hc _

theorem exec_bx_passes {rm : Reg} (h15 : rm ≠ 15) (hrm : Readable rm s) :
    exec (.bx c rm) s = .next (exchangeTo (readReg rm s) s) := by
  rw [exec_bx, whenCondition_passes hc, if_neg h15, withOperand_readable hrm]

theorem exec_bxR15_passes : exec (.bxR15 c) s = .next (invalidExchange s) :=
  whenCondition_passes hc _

end

/-- The counter takes the whole value, bit 0 included (R152). -/
@[simp] theorem pcOf_exchangeTo (v : Word) (s : State) : pcOf (exchangeTo v s) = v := rfl

@[simp] theorem exchangeTo_isa (v : Word) (s : State) :
    (exchangeTo v s).isa = if v.getLsbD 0 then .narrow else .wide := rfl

/-- The link written before the counter moves is in the active r14, with its mark (R151). -/
theorem link_getReg (target ret : Word) (s : State) :
    (setPc target (writeReg 14 ret s)).regs.getReg (.r14 s.mode) = ret ∧
      (setPc target (writeReg 14 ret s)).written.getReg (.r14 s.mode) = true :=
  ⟨RegFile.getReg_setReg_same s.regs (.r14 s.mode) ret, RegFile.getReg_setReg_same s.written (.r14 s.mode) true⟩

theorem onlyRegsChange_mono {rs qs : List RegSlot} {s t : State} (h : OnlyRegsChange rs s t)
    (hsub : ∀ r, r ∈ rs → r ∈ qs) : OnlyRegsChange qs s t :=
  ⟨h.side, fun r hr => h.regs r fun hm => hr (hsub r hm), h.flags⟩

theorem link_only (target ret : Word) (s : State) :
    OnlyRegsChange [.gpr15, .r14 s.mode] s (setPc target (writeReg 14 ret s)) :=
  have hlink : OnlyRegsChange [.r14 s.mode] s (writeReg 14 ret s) := writeReg_only 14 ret s
  hlink.trans (onlyRegsChange_mono (setPc_only target _) (by simp)) (by simp)

/-- The word after a Wide instruction has the parity of its address (R155). -/
theorem getLsbD_zero_add_four (v : Word) : (v + 4).getLsbD 0 = v.getLsbD 0 := by
  simp [BitVec.getLsbD_add (show 0 < 32 by decide), -BitVec.getLsbD_eq_getElem]

/-! ### The statements -/

/-- Settles O13: B writes x[15] alone, and the target is the counter plus the scaled field. -/
theorem branchJumps : Obligations.BranchJumps :=
  ⟨fun _ => decodeWide_b, fun _ off s hc =>
    ⟨_, exec_b_passes hc off, rfl, rfl, setPc_only _ s, setPc_modes _ s⟩⟩

/-- Settles O14: BL writes the active r14 and then x[15]. -/
theorem branchLinks : Obligations.BranchLinks := by
  refine ⟨fun _ => decodeWide_bl, fun c off s hc => ⟨_, exec_bl_passes hc off, rfl, ?_⟩⟩
  obtain ⟨hlink, hmark⟩ := link_getReg (branchTarget off s) (pcOf s + 4) s
  exact ⟨hlink, hmark, rfl, link_only _ _ s, ⟨rfl, rfl, rfl⟩⟩

/-- Settles O15: BX answers `exchangeTo` of the register's value, which writes x[15] and the instruction set alone. -/
theorem branchExchanges : Obligations.BranchExchanges :=
  ⟨fun _ => decodeWide_bx, fun _ _ s hc h15 hrm =>
    ⟨_, exec_bx_passes hc h15 hrm, pcOf_exchangeTo _ s, rfl, exchangeTo_isa _ s, rfl, rfl, exchangeTo_only _ s⟩⟩

/-- Settles O16: the mode is all that `invalidExchange` writes, and a failed condition reaches no handler. -/
theorem invalidExchange_modeOnly : Obligations.InvalidExchange := by
  refine ⟨fun _ => decodeWide_bxR15, fun c s hc => ⟨_, exec_bxR15_passes hc, rfl, rfl, rfl, rfl, fun hm => ?_⟩,
    fun c s hc => ⟨_, exec_of_condFails rfl hc, rfl, rfl⟩⟩
  rw [invalidExchange, switchOperatingMode, ← hm]

/-- Settles O18: the link that BL left is the value that BX sends to the counter, and adding 4 keeps its bit 0. -/
theorem callReturns : Obligations.CallReturns := by
  intro c d off s t u hc hbl hmode hsame hd
  cases (exec_bl_passes hc off).symm.trans hbl
  obtain ⟨hlink, hmark⟩ := link_getReg (branchTarget off s) (pcOf s + 4) s
  obtain ⟨hval, hkept⟩ := hsame
  have hslot : regSlot u.mode 14 = .r14 s.mode := by rw [hmode]; rfl
  have hread : readReg 14 u = pcOf s + 4 := by rw [readReg, hslot]; exact hval.trans hlink
  have hreadable : Readable 14 u := by rw [Readable, hslot]; exact hkept.trans hmark
  refine ⟨_, exec_bx_passes hd (by decide) hreadable, ?_⟩
  rw [hread]
  refine ⟨pcOf_exchangeTo _ u, fun heven => ?_⟩
  rw [exchangeTo_isa, getLsbD_zero_add_four, heven]
  rfl

end Sys2Proof.Proofs
end

section
/-! Multiplies: what a word of each row decodes to, the state that MUL and MLA leave once their condition has passed, and
their results as numbers (42_multiply.md R160-R164). -/
namespace Sys2Proof.Proofs
open Sys2Proof.Machine

/-! ### Decoding -/

theorem decodeWide_of_multiply {w : Word} (h : w &&& 0x0FC000F0 = 0x00000090) : decodeWide w = decodeMultiply w := by
  rw [decodeWide, classifyWide_of_classTest (c := .multiply) h]

/-- Bit 21 is the accumulate bit: clear in the row of MUL (30_encoding.md R106). -/
theorem decodeWide_mul {w : Word} (h : w &&& 0x0FE000F0 = 0x00000090) :
    decodeWide w = .mul (condOf w) (mulFields w) := by
  have haccumulate : w.getLsbD 21 = false := bit_of_match h (by decide)
  rw [decodeWide_of_multiply (match_sub h), decodeMultiply, haccumulate]

theorem decodeWide_mla {w : Word} (h : w &&& 0x0FE000F0 = 0x00200090) :
    decodeWide w = .mla (condOf w) (mulFields w) := by
  have haccumulate : w.getLsbD 21 = true := bit_of_match h (by decide)
  rw [decodeWide_of_multiply (match_sub h), decodeMultiply, haccumulate]

/-! ### The handlers -/

section
variable {c : Cond} {f : MulFields} {s : State} (hc : CondPasses c s) (hm : Readable f.rm s) (hs : Readable f.rs s)
include hc hm hs

theorem exec_mul_passes : exec (.mul c f) s = .next (writeProduct f (readReg f.rm s * readReg f.rs s) s) := by
  rw [exec_mul, whenCondition_passes hc, withOperand_readable hm, withOperand_readable hs]

theorem exec_mla_passes (hn : Readable f.rn s) :
    exec (.mla c f) s = .next (writeProduct f (readReg f.rm s * readReg f.rs s + readReg f.rn s) s) := by
  rw [exec_mla, whenCondition_passes hc, withOperand_readable hm, withOperand_readable hs, withOperand_readable hn]

/-- Either multiply completes by writing some result; the two differ in its value only. -/
theorem exec_multiply_passes {i : Instr} (hi : i = .mul c f ∨ i = .mla c f) (hn : i = .mla c f → Readable f.rn s) :
    ∃ res, exec i s = .next (writeProduct f res s) := by
  rcases hi with rfl | rfl
  · exact ⟨_, exec_mul_passes hc hm hs⟩
  · exact ⟨_, exec_mla_passes hc hm hs (hn rfl)⟩

end

/-! ### The destination and the result -/

theorem readReg_writeProduct (f : MulFields) (res : Word) (s : State) : readReg f.rd (writeProduct f res s) = res :=
  (writeProduct_effect f res s).result.1

/-- Register 15 as the destination is a redirect, and 13 and 14 are those of the mode's bank (R164). -/
theorem multiplyEffect_destination {f : MulFields} {res : Word} {s t : State} (h : MultiplyEffect f res s t) :
    pcOf t = (if f.rd = 15 then res else pcOf s + 4) ∧
      (f.rd = 13 → (t.regs.bank.get s.mode).r13 = res) ∧ (f.rd = 14 → (t.regs.bank.get s.mode).r14 = res) := by
  obtain ⟨hresult, _⟩ := h.result
  refine ⟨h.counter, fun hrd => ?_, fun hrd => ?_⟩ <;>
  · rw [hrd] at hresult
    rw [← h.mode]
    exact hresult

/-- The operands' signs do not show in the low 32 bits of the product (R162). -/
theorem product_eq_ofNat_ofInt (a b : Word) :
    a * b = BitVec.ofNat 32 (a.toNat * b.toNat) ∧ a * b = BitVec.ofInt 32 (a.toInt * b.toInt) := by
  constructor
  · rw [BitVec.ofNat_mul, BitVec.ofNat_toNat, BitVec.ofNat_toNat, BitVec.setWidth_eq, BitVec.setWidth_eq]
  · rw [BitVec.ofInt_mul, BitVec.ofInt_toInt, BitVec.ofInt_toInt]

theorem sum_eq_ofNat_ofInt (a b d : Word) :
    a * b + d = BitVec.ofNat 32 (a.toNat * b.toNat + d.toNat) ∧
      a * b + d = BitVec.ofInt 32 (a.toInt * b.toInt + d.toInt) := by
  obtain ⟨hnat, hint⟩ := product_eq_ofNat_ofInt a b
  constructor
  · rw [BitVec.ofNat_add, ← hnat, BitVec.ofNat_toNat, BitVec.setWidth_eq]
  · rw [BitVec.ofInt_add, ← hint, BitVec.ofInt_toInt]

theorem product_eq_zero {a b : Word} (h : a = 0 ∨ b = 0) : a * b = 0 := by
  rcases h with rfl | rfl
  · exact BitVec.zero_mul
  · exact BitVec.mul_zero

/-! ### The statements -/

/-- Settles O19: MUL is the write of a product, which does what `MultiplyEffect` says; its handler does not read `Rn`. -/
theorem mulExecutes : Obligations.MulExecutes :=
  ⟨fun _ => decodeWide_mul, fun _ f s hc hm hs => ⟨_, exec_mul_passes hc hm hs, writeProduct_effect f _ s⟩,
    fun _ _ _ _ => rfl⟩

/-- Settles O20: MLA is the write of a product plus `x[Rn]`. -/
theorem mlaExecutes : Obligations.MlaExecutes :=
  ⟨fun _ => decodeWide_mla, fun _ f s hc hm hs hn => ⟨_, exec_mla_passes hc hm hs hn, writeProduct_effect f _ s⟩⟩

/-- Settles O21: the flags follow the result that was written, which is what `x[Rd]` reads afterwards. -/
theorem multiplyFlagRule : Obligations.MultiplyFlagRule := by
  intro i c f s hi hc hm hs hn
  obtain ⟨res, hexec⟩ := exec_multiply_passes hc hm hs hi hn
  refine ⟨_, hexec, ?_⟩
  rw [readReg_writeProduct]
  exact (writeProduct_effect f res s).flags

/-- Settles O23: the register reads the word that was written, which is the product of the operands before the step as
naturals and as integers. -/
theorem multiplyArithmetic : Obligations.MultiplyArithmetic := by
  refine ⟨fun c f s hc hm hs => ⟨_, exec_mul_passes hc hm hs, ?_⟩,
    fun c f s hc hm hs hn => ⟨_, exec_mla_passes hc hm hs hn, ?_⟩, fun _ => ⟨rfl, rfl, rfl⟩⟩
  · obtain ⟨hnat, hint⟩ := product_eq_ofNat_ofInt (readReg f.rm s) (readReg f.rs s)
    rw [readReg_writeProduct]
    exact ⟨hnat, hint, product_eq_zero, multiplyEffect_destination (writeProduct_effect f _ s)⟩
  · obtain ⟨hnat, hint⟩ := sum_eq_ofNat_ofInt (readReg f.rm s) (readReg f.rs s) (readReg f.rn s)
    rw [readReg_writeProduct]
    refine ⟨hnat, hint, fun hzero => ?_, multiplyEffect_destination (writeProduct_effect f _ s)⟩
    rw [product_eq_zero hzero]
    exact BitVec.zero_add _

end Sys2Proof.Proofs
end

section
/-! The instructions with no handler: behind the condition stage when Wide, at once when Narrow (43_unimplemented.md
R170, R173, R177). -/
namespace Sys2Proof.Proofs
open Sys2Proof.Machine

/-- A Wide instruction whose class has no handler is the stub behind its condition (R173). -/
theorem exec_of_noHandler {i : Instr} {cls : WideClass} {c : Cond} (hcls : i.cls = .wide cls)
    (hno : cls ∉ [WideClass.branch, WideClass.branchExchange, WideClass.multiply]) (hcond : i.cond = some c)
    (s : State) : exec i s = whenCondition c s (unimplemented (.wide cls) (encode i) s) := by
  cases exec_form i with
  | narrow hnone => exact absurd (hnone.symm.trans hcond) nofun
  | stub hcond' hcls' _ h =>
    cases hcond'.symm.trans hcond
    cases hcls'.symm.trans hcls
    exact h s
  | handled _ hmem =>
    rw [hcls] at hmem
    exact absurd (by simpa using hmem) hno

/-- Settles O25: the condition stage passes on the stub, or only advances the counter. -/
theorem wideWithoutHandler : Obligations.WideWithoutHandler := by
  intro i cls c s hcls hno hcond
  have hexec := exec_of_noHandler hcls hno hcond s
  exact ⟨fun hpass => hexec.trans (whenCondition_passes hpass _),
    fun hfail => ⟨_, exec_of_condFails hcond hfail, rfl, setPc_only _ s, setPc_modes _ s⟩,
    fun _ hr => (whenCondition_refused (hexec.symm.trans hr)).1⟩

/-- A step is `exec` of what the word read at the counter decodes to (40_dispatch.md R132, R138). -/
theorem step_of_memRead {s : State} {w : Word} (h : memRead (pcOf s) (fetchWidth s.isa) s = .ok w) :
    step s = exec (decodeFetched s.isa w) s :=
  step_of_fetch (by rw [fetch, h])

/-- A word read with the width of a halfword is that halfword, extended by zeros (20_memory.md R80). -/
theorem memRead_half_eq {a w : Word} {s : State} (h : memRead a .half s = .ok w) : (w.setWidth 16).setWidth 32 = w :=
  (memRead_composes.mp h).2.symm

/-- Settles O26: the decoded instruction encodes back to the word that was read, and is of the word's class. -/
theorem unimplementedStub : Obligations.UnimplementedStub := by
  refine ⟨fun s w cls hisa hread hcls hno hpass => ?_, fun s w hisa hread => ?_⟩
  · have hdec : (decodeWide w).cls = .wide cls := (inWideClass_iff w cls).mp hcls ▸ decodeWide_cls w
    have hstub := (wideWithoutHandler _ cls _ s hdec hno (cond_core_decodeWide w).1).1 hpass
    rw [encode_decodeWide] at hstub
    rw [step_of_memRead (by rw [hisa]; exact hread), hisa]
    exact hstub
  · have hstub := narrowStops _ s (decodeNarrow_isa (w.setWidth 16))
    rw [encode_decodeNarrow, memRead_half_eq hread] at hstub
    rw [step_of_memRead (by rw [hisa]; exact hread), hisa]
    exact hstub

end Sys2Proof.Proofs
end

section
/-! The invariant over a host action and over a session (60_exceptions.md R190; 70_reset_and_hazards.md R200-R203). -/
namespace Sys2Proof.Proofs
open Sys2Proof.Machine

/-! ### A byte written by the host -/

/-- A canonical address is one of the addresses of its byte, the ROM being no longer than its window (R83). -/
theorem resolve_of_rawResolve {p : Params} (hrom : p.romSize ≤ maxRomSize) {a : Word} {l : Loc}
    (h : rawResolve p a = .ok l) : resolve p a = .ok l := by
  obtain ⟨rfl, hlt, haddr⟩ := rawResolve_ok h
  exact resolve_primary hrom hlt haddr.symm

/-- The tables of R73 have no other entries. -/
theorem waitN_mem (b : Byte) : waitN b ∈ [4, 3, 2, 8] := by
  unfold waitN
  split <;> decide

theorem waitS_mem (b : Byte) : waitS b ∈ [2, 1] := by
  unfold waitS
  split <;> decide

/-- A protected byte write leaves the cycle costs as they were, or takes both from the tables (R73). -/
theorem storeByte_wait (l : Loc) (b : Byte) {s : State} (hn : s.ds.wsN ∈ [4, 3, 2, 8]) (hs : s.ds.wsS ∈ [2, 1]) :
    (storeByte l b s).ds.wsN ∈ [4, 3, 2, 8] ∧ (storeByte l b s).ds.wsS ∈ [2, 1] := by
  rw [storeByte_ds]
  split
  · obtain ⟨hwsN, hwsS⟩ := displayAfter_wait l.offset b s.ds
    rw [hwsN, hwsS]
    split
    · exact ⟨waitN_mem b, waitS_mem b⟩
    · exact ⟨hn, hs⟩
  · exact ⟨hn, hs⟩

section
variable {l : Loc} {b : Byte} {s : State} (hi : Inv s) (hl : resolve s.params l.bus = .ok l)
include hi hl

/-- Storing a byte where an address resolves, and logging it if that is in cartridge ROM, keeps the invariant as long as
the cycle costs stay in their tables. -/
theorem inv_of_byteWritten {t : State} (hframe : SameProcessor s t)
    (hmem : t.mem = Memory.write s.mem (resolvedAddr l) b ∨ t.mem = s.mem)
    (hwaitN : t.ds.wsN ∈ [4, 3, 2, 8]) (hwaitS : t.ds.wsS ∈ [2, 1])
    (hlog : t.anomalies =
      if l.region = .rom then s.anomalies ++ [{ bus := l.bus, index := l.offset, byte := b }] else s.anomalies) :
    Inv t where
  romSize := by rw [hframe.params]; exact hi.romSize
  memCanonical := by
    rcases hmem with hm | hm <;> rw [hm]
    · exact Memory.write_wf hi.memCanonical
    · exact hi.memCanonical
  memExists := by
    rw [hframe.params]
    intro cell hc
    rcases hmem with hm | hm <;> rw [hm] at hc
    · rcases Memory.mem_write hc with hold | hnew
      · exact hi.memExists cell hold
      · exact ⟨l.region, l.offset, resolve_offset_lt hl, hnew⟩
    · exact hi.memExists cell hc
  waitN := hwaitN
  waitS := hwaitS
  pcWritten := by rw [hframe.written]; exact hi.pcWritten
  anomalies := by
    rw [hframe.params, hlog]
    intro x hx
    split at hx
    · rename_i hr
      rcases List.mem_append.mp hx with hold | hnew
      · exact hi.anomalies x hold
      · rw [List.mem_singleton.mp hnew, ← hr]
        exact hl
    · exact hi.anomalies x hx

theorem inv_storeByte : Inv (storeByte l b s) := by
  obtain ⟨hwaitN, hwaitS⟩ := storeByte_wait l b hi.waitN hi.waitS
  exact inv_of_byteWritten hi hl (storeByte_frame l b s) ((storeByte_mem l b s).imp_right fun h => h.2.2) hwaitN hwaitS
    (storeByte_anomalies l b s)

theorem inv_storeByteRaw : Inv (storeByteRaw l b s) :=
  inv_of_byteWritten hi hl (storeByteRaw_frame l b s) (.inl (storeByteRaw_mem l b s))
    (by rw [storeByteRaw_ds]; exact hi.waitN) (by rw [storeByteRaw_ds]; exact hi.waitS) (storeByteRaw_anomalies l b s)

end

/-! ### The host's ports -/

/-- A byte write that keeps the invariant and the parameters keeps the invariant over a span. -/
theorem inv_storeAll {store : Loc → Byte → State → State} {s : State} {ls : List Loc}
    (hstore : ∀ l b (u : State), Inv u → resolve u.params l.bus = .ok l →
      Inv (store l b u) ∧ (store l b u).params = u.params)
    (hls : ∀ l ∈ ls, resolve s.params l.bus = .ok l) (v : Word) (hi : Inv s) : Inv (storeAll store ls v s) := by
  have hboth : Inv (storeAll store ls v s) ∧ (storeAll store ls v s).params = s.params := by
    refine storeAll_induct (P := fun u => Inv u ∧ u.params = s.params) ?_ v s ⟨hi, rfl⟩
    rintro l hl b u ⟨hu, hp⟩
    obtain ⟨hu', hp'⟩ := hstore l b u hu (by rw [hp]; exact hls l hl)
    exact ⟨hu', hp'.trans hp⟩
  exact hboth.1

theorem inv_memWrite {a v : Word} {w : Width} {s t : State} (hi : Inv s) (h : memWrite a w v s = .ok t) : Inv t := by
  obtain ⟨ls, hspan, rfl⟩ := memWrite_eq_ok.mp h
  refine inv_storeAll (fun l b u hu hl => ⟨inv_storeByte hu hl, (storeByte_frame l b u).params⟩)
    (fun l hl => ?_) v hi
  obtain ⟨c, hc⟩ := spanOf_mem hspan hl
  rw [resolve_bus hc]
  exact hc

theorem inv_rawWrite {a v : Word} {w : Width} {s t : State} (hi : Inv s) (h : rawWrite a w v s = .ok t) : Inv t := by
  obtain ⟨ls, hspan, rfl⟩ := rawWrite_eq_ok.mp h
  refine inv_storeAll (fun l b u hu hl => ⟨inv_storeByteRaw hu hl, (storeByteRaw_frame l b u).params⟩)
    (fun l hl => ?_) v hi
  obtain ⟨c, hc⟩ := spanOf_mem hspan hl
  rw [(rawResolve_ok hc).1]
  exact resolve_of_rawResolve hi.romSize.2 hc

/-- The display inputs are no part of the invariant. -/
theorem inv_driveDisplay (vb hb : Bool) (sl : BitVec 16) {s : State} (hi : Inv s) : Inv (driveDisplay vb hb sl s) :=
  { hi with }

/-- Settles O59: the memory ports write bytes that exist; the other ports leave all the invariant reads but the marks. -/
theorem hostActionKeepsInv : Obligations.HostActionKeepsInv := by
  intro a s t hi h
  have hpc : t.written.gpr15 = true := marksKept_hostAct h (.reg .gpr15) hi.pcWritten
  cases a with
  | writeReg i v => cases h; exact inv_of_sameMemorySide hi (writeReg_only i v s).side hpc
  | setFlag f b => cases h; exact inv_of_sameMemorySide hi (setFlag_side f b s) hpc
  | setFlagWord w => cases h; exact inv_of_sameMemorySide hi (setFlagWord_flagsOnly w s).side hpc
  | switchMode | switchModeBits | switchInstrSet =>
    cases h
    exact inv_of_sameMemorySide hi (.of_fields rfl rfl rfl rfl rfl rfl rfl) hpc
  | protectedWrite a w v => exact inv_memWrite hi h
  | rawWrite a w v => exact inv_rawWrite hi h
  | driveDisplay vb hb sl => cases h; exact inv_driveDisplay vb hb sl hi

/-! ### A session -/

/-- The two images list only bytes that exist: the boot image fills its region, the ROM image is the ROM (R203). -/
theorem launchState_memExists {l : Launch} (hb : l.bootImage.length = 0x4000) :
    ∀ cell ∈ (launchState l).mem, IsBackingAddr (launchState l).params cell.1 := by
  intro cell hc
  rcases List.mem_append.mp hc with hboot | hrom
  · obtain ⟨_, hhi⟩ := imageCells_mem hboot
    exact ⟨.boot, cell.1, by rw [regionSize]; omega, (Nat.zero_add _).symm⟩
  · obtain ⟨hlo, hhi⟩ := imageCells_mem hrom
    refine ⟨.rom, cell.1 - 0x08000000, ?_, (Nat.add_sub_cancel' hlo).symm⟩
    change cell.1 - 0x08000000 < l.romImage.length
    omega

/-- Every session starts in a state that meets the invariant. -/
theorem inv_of_launch {l : Launch} {s : State} (h : launch l = .ok s) : Inv s := by
  obtain ⟨hb, hpos, hmax, rfl⟩ := launch_ok h
  exact
    { romSize := ⟨hpos, hmax⟩
      memCanonical := launchState_mem_wf l (by omega)
      memExists := launchState_memExists hb
      waitN := List.mem_cons_self
      waitS := List.mem_cons_self
      pcWritten := resetMarks_gpr15 l.resetRegs
      anomalies := fun _ hx => absurd hx List.not_mem_nil }

/-- Settles O60: the invariant holds at the start, and every step and every host action keeps it. -/
theorem reachableInv : Obligations.ReachableInv := by
  intro s hs
  induction hs with
  | start h => exact inv_of_launch h
  | step _ h ih => exact stepKeepsInv _ _ ih h
  | host a _ h ih => exact hostActionKeepsInv a _ _ ih h

end Sys2Proof.Proofs
end

section
/-! The loader's contract, and two ways in which a run does not go on: the loop of an invalid BX and the Narrow mode
(70_reset_and_hazards.md R203, R206, R207). -/
namespace Sys2Proof.Proofs
open Sys2Proof.Machine

/-! ### The loader -/

/-- Settles O55: `launch` tests the two lengths, and the parameters take the ROM's. -/
theorem loaderContract : Obligations.LoaderContract := by
  refine ⟨fun l => ⟨?_, ?_⟩, fun l s h => ?_⟩
  · rintro ⟨s, h⟩
    obtain ⟨hboot, hpos, hmax, _⟩ := launch_ok h
    exact ⟨hboot, hpos, hmax⟩
  · rintro ⟨hboot, hrom⟩
    exact ⟨launchState l, (if_pos hboot).trans (if_pos hrom)⟩
  · obtain ⟨_, _, _, rfl⟩ := launch_ok h
    rfl

/-! ### Runs -/

/-- A run of at least one step is a step that continues and the rest of the run. -/
theorem run_succ_eq_next (M : Host.Core) {k : Nat} {s t : M.State} :
    M.run (k + 1) s = .next t ↔ ∃ u, M.step s = .next u ∧ M.run k u = .next t := by
  rw [Host.Core.run]
  cases M.step s <;> simp

theorem runsTo_succ {k : Nat} {s t : State} : RunsTo (k + 1) s t ↔ ∃ u, step s = .next u ∧ RunsTo k u t :=
  run_succ_eq_next Sys2Proof.core

/-- A run from a state that steps to itself stays there. -/
theorem runsTo_self {t : State} (h : step t = .next t) (k : Nat) : RunsTo k t t := by
  induction k with
  | zero => rfl
  | succ k ih => exact runsTo_succ.mpr ⟨t, h, ih⟩

/-! ### An invalid BX -/

/-- The fetch does not look at the operating mode (40_dispatch.md R132). -/
theorem fetch_switchOperatingMode (m : Mode) (s : State) : fetch (switchOperatingMode m s) = fetch s := rfl

/-- AL reads no flag and holds (40_dispatch.md R130). -/
theorem condPasses_al (s : State) : CondPasses .al s := rfl

section
variable {c : Cond} {s : State} (hf : Fetches s (.bxR15 c))
include hf

theorem step_bxR15_passes (hc : CondPasses c s) : step s = .next (invalidExchange s) :=
  (step_of_fetch hf).trans (exec_bxR15_passes hc)

/-- The counter is held, so the same word is fetched in the Undefined mode (R206). -/
theorem fetches_invalidExchange : Fetches (invalidExchange s) (.bxR15 c) :=
  (fetch_switchOperatingMode .undefined s).trans hf

/-- The Undefined mode is entered once: from there, the step that passes changes nothing. -/
theorem runsTo_invalidExchange (hc : CondPasses c s) (hu : CondPasses c (invalidExchange s)) {k : Nat} (hk : 1 ≤ k) :
    RunsTo k s (invalidExchange s) := by
  obtain ⟨k, rfl⟩ := Nat.exists_eq_add_of_le' hk
  have hloop : step (invalidExchange s) = .next (invalidExchange s) :=
    step_bxR15_passes (fetches_invalidExchange hf) hu
  exact runsTo_succ.mpr ⟨_, step_bxR15_passes hf hc, runsTo_self hloop k⟩

end

/-- Settles O17: the second step runs the same instruction, under the condition in the Undefined bank. -/
theorem invalidExchangeHangs : Obligations.InvalidExchangeHangs := by
  refine ⟨fun c s hf hc => ?_, fun s hf k hk => runsTo_invalidExchange hf (condPasses_al s) (condPasses_al _) hk⟩
  have hagain : step (invalidExchange s) = exec (.bxR15 c) (invalidExchange s) :=
    step_of_fetch (fetches_invalidExchange hf)
  refine ⟨step_bxR15_passes hf hc, fun hu k hk => runsTo_invalidExchange hf hc hu hk, fun hu => ?_, fun e he => ?_⟩
  · exact ⟨_, hagain.trans (exec_of_condFails rfl hu), rfl⟩
  · exact hagain.trans (whenCondition_unwritten he _)

/-! ### The Narrow mode -/

/-- An instruction of the Narrow set is of one of its formats (30_encoding.md R113). -/
theorem cls_of_isa_narrow {i : Instr} (hisa : i.isa = .narrow) : ∃ f, i.cls = .narrow f := by
  unfold Instr.isa at hisa
  cases hcls : i.cls with
  | wide c => rw [hcls] at hisa; cases hisa
  | narrow f => exact ⟨f, rfl⟩

/-- A step that continues ran a Wide instruction, so none leaves a Narrow state. -/
theorem step_ne_next_of_narrow {s : State} (hisa : s.isa = .narrow) (t : State) : step s ≠ .next t := by
  intro h
  obtain ⟨hwide, _⟩ := step_next_cases h
  exact absurd (hisa.symm.trans hwide) nofun

/-- Only the port of the instruction set writes it (60_exceptions.md R190). -/
theorem hostAct_isa {a : HostAction} {s t : State} (h : hostAct a s = .ok t) :
    t.isa = s.isa ∨ a = .switchInstrSet t.isa := by
  cases a with
  | writeReg | setFlag | setFlagWord | switchMode | switchModeBits | driveDisplay => cases h; exact .inl rfl
  | switchInstrSet => cases h; exact .inr rfl
  | protectedWrite => exact .inl (memWrite_frame h).isa
  | rawWrite => exact .inl (rawWrite_frame h).isa

/-- Settles O28: a Narrow halfword decodes to an instruction with no handler, and of the host's ports one writes the
instruction set. -/
theorem narrowLockIn : Obligations.NarrowLockIn := by
  refine ⟨fun c rm s hc h15 hrm hodd => ?_, fun s w hisa hread => ?_, fun s t hisa => step_ne_next_of_narrow hisa t,
    fun k s t hisa hrun => ?_, fun a s t hisa hact hwide => ?_, fun s => rfl⟩
  · exact ⟨_, exec_bx_passes hc h15 hrm, by rw [exchangeTo_isa, hodd]; rfl⟩
  · obtain ⟨f, hcls⟩ := cls_of_isa_narrow (decodeNarrow_isa (w.setWidth 16))
    exact ⟨f, by rw [unimplementedStub.2 s w hisa hread, hcls]⟩
  · cases k with
    | zero => rfl
    | succ k =>
      obtain ⟨u, hu, _⟩ := runsTo_succ.mp hrun
      exact absurd hu (step_ne_next_of_narrow hisa u)
  · rcases hostAct_isa hact with hsame | rfl
    · exact absurd (hsame.symm.trans hwide) (by rw [hisa]; exact nofun)
    · rw [hwide]

end Sys2Proof.Proofs
end
